-- ==== Sys2Proof/Word.lean ====
section
/-! DEFINITION. The word types of the block: bytes, frames, raw codes and serials (00_scope.md R6, R7). -/

namespace Sys2Proof

/-- One element of a frame, an unsigned integer 0..255 (R6 BYTE, R7). -/
abbrev Byte := BitVec 8

/-- A byte sequence, element 0 first on the wire and first in the frame (R7, R41). -/
abbrev Frame := List Byte

/-- A raw measurement code, and the s16 pattern of a converted value (R6 RAW_WIDTH, OUT_FORMAT). -/
abbrev Half := BitVec 16

/-- A serial number (R6 SERIAL_WIDTH). -/
abbrev Serial := BitVec 64

end Sys2Proof
end

