-- ==== Sys2Proof/Config.lean ====
section
/-! DEFINITION. The OPEN parameters of 00_scope.md R6: constants without a body, so that no proof can rest on a value
of theirs. No step of the block reads one (R6, R245). The fixed parameters stand in Machine/Params.lean. -/

namespace Sys2Proof

/-- OP_LATENCY: the time from request to response; no rule depends on it (R6, R245; log 7). -/
opaque Config.opLatency : Nat

/-- USER_REG_RESET: what the SENSOR's User Register holds after the sensor's own reset (R6, R30; log 7). -/
opaque Config.userRegReset : Byte

/-- HEATER_REG_RESET: what the SENSOR's Heater register holds after the sensor's own reset (R6, R30; log 7). -/
opaque Config.heaterRegReset : Byte

end Sys2Proof
end

