-- ==== Sys2Proof/Syntax.lean ====
section
/-! DEFINITION. The operations of the block: one constructor per row of spec/opcode_table.json, its arguments the
operand fields of its request format (30_encoding.md R61 to R67). A length field (n, nA, nB) is the length of the list
it counts (R70), so it is no argument of its own. -/

namespace Sys2Proof

/-- An operation with its operands. -/
inductive Instr where
  /-- CRC8, format F-CRC (R62, R101). -/
  | crc8 (seed : Byte) (data : List Byte)
  /-- CRCCHK, format F-CHK (R63, R102). -/
  | crcchk (seed : Byte) (data : List Byte) (rcv : Byte)
  /-- UREGDEC, format F-B1 (R64, R120). -/
  | uregdec (u : Byte)
  /-- UREGRES, format F-B2 (R65, R122). -/
  | uregres (cur res : Byte)
  /-- UREGHTR, format F-B2 (R65, R124). -/
  | ureghtr (cur en : Byte)
  /-- HTRDEC, format F-B1 (R64, R125). -/
  | htrdec (h : Byte)
  /-- HTRENC, format F-B1 (R64, R126). -/
  | htrenc (level : Byte)
  /-- MEASRH, format F-MEAS (R66, R153). -/
  | measrh (flags : Byte) (b : List Byte)
  /-- MEAST, format F-MEAS (R66, R154). -/
  | meast (flags : Byte) (b : List Byte)
  /-- SNCHK, format F-SN (R67, R183). -/
  | snchk (a b : List Byte)
  /-- SNTYPE, format F-B1 (R64, R184). -/
  | sntype (x : Byte)
  deriving DecidableEq, Repr

end Sys2Proof
end

