-- ==== Sys2Proof/WellFormed.lean ====
section
/-! DEFINITION. Which operations have an encoding: a counted list fits its 8-bit length field (30_encoding.md R62 to R67)
and an operand with a restricted range is in it (R71). -/

namespace Sys2Proof

/-- The list's length fits an 8-bit length field (R62, R63, R66, R67). -/
def countFits (l : List Byte) : Bool := l.length ≤ 255

/-- The operation has an encoding: what the decoder guarantees of every operation it yields (R69 checks 3 and 4). -/
def Instr.wf : Instr → Bool
  | .crc8 _ d => countFits d
  | .crcchk _ d _ => countFits d
  | .uregdec _ => true
  | .uregres _ res => res ≤ 3
  | .ureghtr _ en => en ≤ 1
  | .htrdec _ => true
  | .htrenc _ => true
  | .measrh flags b => flags ≤ 1 && countFits b
  | .meast flags b => flags ≤ 1 && countFits b
  | .snchk a b => countFits a && countFits b
  | .sntype _ => true

end Sys2Proof
end

