-- ==== Sys2Proof/Decode.lean ====
section
/-! DEFINITION. The decoder, total on every byte sequence (30_encoding.md R69), the encoder from the same opcode map (R61)
and formats (R62 to R67), and the reading of a word of the opcode table (R72). -/

namespace Sys2Proof

/-- The operations' names, in the order of the opcode map (R61). -/
inductive Opcode where
  | crc8 | crcchk | uregdec | uregres | ureghtr | htrdec | htrenc | measrh | meast | snchk | sntype
  deriving DecidableEq, Repr

/-- Which of R69's checks a frame fails first. All four give the same response, so the reason is visible only to a
reader of the model (log 10). -/
inductive Illegal where
  /-- Check 1: L = 0. -/
  | emptyFrame
  /-- Check 2: q[0] is no opcode. -/
  | badOpcode
  /-- Check 3: the length is not the format's. -/
  | badLength
  /-- Check 4: an operand value is out of its range. -/
  | badOperand
  deriving DecidableEq, Repr

/-- The opcode map (R61). -/
def Opcode.code : Opcode → Byte
  | .crc8 => 0x01
  | .crcchk => 0x02
  | .uregdec => 0x03
  | .uregres => 0x04
  | .ureghtr => 0x05
  | .htrdec => 0x06
  | .htrenc => 0x07
  | .measrh => 0x08
  | .meast => 0x09
  | .snchk => 0x0A
  | .sntype => 0x0B

/-- Every row of the opcode map. -/
def Opcode.all : List Opcode :=
  [.crc8, .crcchk, .uregdec, .uregres, .ureghtr, .htrdec, .htrenc, .measrh, .meast, .snchk, .sntype]

/-- The opcode a byte stands for; 0x00 and 0x0C..0xFF stand for none (R61, R71). -/
def Opcode.ofByte (b : Byte) : Option Opcode := Opcode.all.find? (fun o => o.code == b)

/-- A check of R69: pass on, or refuse for the given reason. -/
def need (c : Bool) (why : Illegal) (k : Except Illegal Instr) : Except Illegal Instr := if c then k else .error why

/-- Format F-CRC after the opcode byte: seed, n, then exactly n data bytes (R62). -/
def decodeCrc : Frame → Except Illegal Instr
  | seed :: n :: d => need (d.length == n.toNat) .badLength (.ok (.crc8 seed d))
  | _ => .error .badLength

/-- Format F-CHK after the opcode byte: seed, n, n data bytes, then the received byte (R63). -/
def decodeChk : Frame → Except Illegal Instr
  | seed :: n :: d =>
    match d.drop n.toNat with
    | [rcv] => .ok (.crcchk seed (d.take n.toNat) rcv)
    | _ => .error .badLength
  | _ => .error .badLength

/-- Format F-B1 after the opcode byte: one operand byte (R64). -/
def decodeB1 (mk : Byte → Instr) : Frame → Except Illegal Instr
  | [x] => .ok (mk x)
  | _ => .error .badLength

/-- Format F-B2 after the opcode byte: cur, then v, which must be at most top (R65, R71). -/
def decodeB2 (mk : Byte → Byte → Instr) (top : Byte) : Frame → Except Illegal Instr
  | [cur, v] => need (v ≤ top) .badOperand (.ok (mk cur v))
  | _ => .error .badLength

/-- Format F-MEAS after the opcode byte: flags, n, then exactly n sensor bytes; flags bits 7:1 must be 0 (R66, R71). -/
def decodeMeas (mk : Byte → List Byte → Instr) : Frame → Except Illegal Instr
  | flags :: n :: b => need (b.length == n.toNat) .badLength (need (flags ≤ 1) .badOperand (.ok (mk flags b)))
  | _ => .error .badLength

/-- Format F-SN after the opcode byte: nA, nA bytes, nB, then exactly nB bytes (R67). -/
def decodeSn : Frame → Except Illegal Instr
  | nA :: p =>
    match p.drop nA.toNat with
    | nB :: b => need (b.length == nB.toNat) .badLength (.ok (.snchk (p.take nA.toNat) b))
    | [] => .error .badLength
  | [] => .error .badLength

/-- The operands of the operation named, by its format (R61, R69 checks 3 and 4). -/
def decodeOperands (p : Frame) : Opcode → Except Illegal Instr
  | .crc8 => decodeCrc p
  | .crcchk => decodeChk p
  | .uregdec => decodeB1 .uregdec p
  | .uregres => decodeB2 .uregres 3 p
  | .ureghtr => decodeB2 .ureghtr 1 p
  | .htrdec => decodeB1 .htrdec p
  | .htrenc => decodeB1 .htrenc p
  | .measrh => decodeMeas .measrh p
  | .meast => decodeMeas .meast p
  | .snchk => decodeSn p
  | .sntype => decodeB1 .sntype p

/-- The decoder (R69): total, the first failing check decides. -/
def decode : Frame → Except Illegal Instr
  | [] => .error .emptyFrame
  | op :: p =>
    match Opcode.ofByte op with
    | none => .error .badOpcode
    | some o => decodeOperands p o

/-- The length field of a counted list (R70). -/
def countByte (l : List Byte) : Byte := BitVec.ofNat 8 l.length

/-- The operation's opcode. -/
def Instr.opcode : Instr → Opcode
  | .crc8 _ _ => .crc8
  | .crcchk _ _ _ => .crcchk
  | .uregdec _ => .uregdec
  | .uregres _ _ => .uregres
  | .ureghtr _ _ => .ureghtr
  | .htrdec _ => .htrdec
  | .htrenc _ => .htrenc
  | .measrh _ _ => .measrh
  | .meast _ _ => .meast
  | .snchk _ _ => .snchk
  | .sntype _ => .sntype

/-- The bytes after the opcode byte, by the formats R62 to R67. -/
def Instr.operandBytes : Instr → Frame
  | .crc8 seed d => seed :: countByte d :: d
  | .crcchk seed d rcv => seed :: countByte d :: (d ++ [rcv])
  | .uregdec u => [u]
  | .uregres cur res => [cur, res]
  | .ureghtr cur en => [cur, en]
  | .htrdec h => [h]
  | .htrenc level => [level]
  | .measrh flags b => flags :: countByte b :: b
  | .meast flags b => flags :: countByte b :: b
  | .snchk a b => countByte a :: (a ++ countByte b :: b)
  | .sntype x => [x]

/-- The request frame of an operation. -/
def encode (i : Instr) : Frame := i.opcode.code :: i.operandBytes

/-- The frame length of a format, by its length fields (R62 to R67); a byte that is not there reads as 0. -/
def formatLength (q : Frame) : Opcode → Nat
  | .crc8 => 3 + (q.getD 2 0).toNat
  | .crcchk => 4 + (q.getD 2 0).toNat
  | .uregdec => 2
  | .uregres => 3
  | .ureghtr => 3
  | .htrdec => 2
  | .htrenc => 2
  | .measrh => 3 + (q.getD 2 0).toNat
  | .meast => 3 + (q.getD 2 0).toNat
  | .snchk => 3 + (q.getD 1 0).toNat + (q.getD (2 + (q.getD 1 0).toNat) 0).toNat
  | .sntype => 2

/-- The frame length a reader WITHOUT frame boundaries takes from the opcode and the length fields (R72). An illegal
opcode has no format: its byte alone is the frame. -/
def streamLength (q : Frame) : Nat :=
  match Opcode.ofByte (q.getD 0 0) with
  | none => 1
  | some o => formatLength q o

/-- The bytes of a table word, the first byte in its bits 7..0 (spec/opcode_table.json's numbering). -/
def tableBytes (nbits w : Nat) : Frame := (List.range (nbits / 8)).map (fun k => BitVec.ofNat 8 (w / 256 ^ k))

/-- The request frame of a table word: its bytes, then as many zero bytes as the length fields ask for (log 3). -/
def frameOfTableWord (nbits w : Nat) : Frame :=
  (List.range (streamLength (tableBytes nbits w))).map (fun k => (tableBytes nbits w).getD k 0)

/-- What the decoder reads from a table word. -/
def decodeTableWord (nbits w : Nat) : Option Instr :=
  match decode (frameOfTableWord nbits w) with
  | .ok i => some i
  | .error _ => none

end Sys2Proof
end

