-- ==== Sys2Proof/Machine/State.lean ====
section
/-! DEFINITION. The state of the block (10_state.md R21), the host's actions on it (00_scope.md R5), its one model fault,
and reset (R26, R241). -/

namespace Sys2Proof.Machine

/-- What the host does to the block, one action a step (00_scope.md R5; 30_encoding.md R60; 10_state.md R21;
70_reset_and_hazards.md R240). DESIGN CHOICE, safe: the actions stand in State as plain data (log 1). -/
inductive HostAction where
  /-- Presents a request frame; the action completes when the response is in RSP (R60, R216). -/
  | submit (q : Frame)
  /-- Asserts reset, while the request in flight, if there is one, is executing: it is discarded (R240; log 5). -/
  | assertReset (inFlight : Option Frame)
  /-- Reads RSP (R21, R27). -/
  | readRsp
  /-- Reads RSP_VALID (R21). -/
  | readRspValid
  deriving DecidableEq, Repr

/-- The block's state, R21's pair, and the host's next actions. -/
structure State where
  /-- RSP: the response frame of the last completed operation; none is the spec's own "no value" (R26, R27; log 2). -/
  rsp : Option Frame
  /-- RSP_VALID (R21). -/
  rspValid : Bool
  /-- The MODEL's field: what the host does next, oldest first (log 1). -/
  host : List HostAction
  deriving DecidableEq, Repr

/-- What stops the machine. -/
inductive Fault where
  /-- RspUnwritten: raised by a host read of RSP while RSP holds no value (R27, D22, I2), by no instruction. Safe: no
  byte is read that the block never wrote. That the run ends here is the model's choice (DESIGN CHOICE, safe; log 16). -/
  | rspUnwritten
  deriving DecidableEq, Repr

/-- What has no meaning. -/
inductive Refusal where
  /-- Raised by an arm of exec whose instruction has no meaning yet; no arm is left that does. Safe. -/
  | notModelled (mnemonic : String)
  deriving DecidableEq, Repr

/-- The block right after reset (R26, R241), with a host that has nothing to do (log 1). -/
def State.reset : State := { rsp := none, rspValid := false, host := [] }

end Sys2Proof.Machine
end

