-- ==== Sys2Proof/Machine/Params.lean ====
section
/-! DEFINITION. The fixed parameters of the block (00_scope.md R6) and the two wire bytes it emits (30_encoding.md R77). -/

namespace Sys2Proof.Machine

/-- CRC_POLY: MSB-first, the x^8 term implied by the shift (R6, R100). -/
def crcPoly : Byte := 0x31

/-- CRC_SEED_CHAIN_START, also the seed of the measurement CRC (R6, R106). -/
def crcSeedStart : Byte := 0x00

/-- The User Register mask owned by resolution (R28, R123). -/
def resolutionMask : Byte := 0x81

/-- The User Register mask owned by heaterEnabled (R28, R123). -/
def heaterMask : Byte := 0x04

/-- The Heater register's level field (R29, R125, R126; log 9). -/
def levelMask : Byte := 0x0F

/-- The write-user-reg command byte (R75, R77). -/
def writeUserReg : Byte := 0xE6

/-- The write-heater-reg command byte (R75, R77). -/
def writeHeaterReg : Byte := 0x51

/-- The divisor of both conversions (R150). -/
def convDivisor : Nat := 65536

end Sys2Proof.Machine
end

