-- ==== Sys2Proof/Machine/Flags.lean ====
section
/-! DEFINITION. The status byte RSP[0], the block's only flag (10_state.md R24; 60_exceptions.md R210), what each error
records (R212) with its layout (30_encoding.md R68), and the mismatch mask (43_serial_number.md R181). -/

namespace Sys2Proof.Machine

/-- The four status codes (R210). -/
inductive Status where
  | ok | checksumMismatch | malformedResponse | illegalRequest
  deriving DecidableEq, Repr

/-- The code written to RSP[0] (R210). -/
def Status.code : Status → Byte
  | .ok => 0x00
  | .checksumMismatch => 0x01
  | .malformedResponse => 0x02
  | .illegalRequest => 0x03

/-- A CRC comparison: the computed byte (expected) and the received byte (actual) (R103). -/
abbrev CrcPair := Byte × Byte

/-- The comparison failed. -/
def crcDiffers (p : CrcPair) : Bool := p.1 != p.2

/-- The mask of failed comparisons, bit k + i for entry i of the list (R181). -/
def mismatchMask : Nat → List CrcPair → Byte
  | _, [] => 0
  | k, p :: ps => (if crcDiffers p then 1 <<< k else 0) ||| mismatchMask (k + 1) ps

/-- The bytes of the pairs in order: e0, a0, e1, a1, ... (R68, R183). -/
def pairBytes : List CrcPair → List Byte
  | [] => []
  | p :: ps => p.1 :: p.2 :: pairBytes ps

/-- An error report with what it records (R212). -/
inductive ErrorReport where
  /-- CHECKSUM_MISMATCH of CRCCHK: one pair. -/
  | crcchkMismatch (p : CrcPair)
  /-- CHECKSUM_MISMATCH of MEASRH and MEAST: one pair. -/
  | measMismatch (p : CrcPair)
  /-- CHECKSUM_MISMATCH of SNCHK: all six pairs; the mask is computed from them. -/
  | snMismatch (ps : List CrcPair)
  /-- MALFORMED_RESPONSE of MEASRH and MEAST: nothing. -/
  | measMalformed
  /-- MALFORMED_RESPONSE of SNCHK: nothing. -/
  | snMalformed
  /-- ILLEGAL_REQUEST: nothing. -/
  | illegal
  deriving DecidableEq, Repr

/-- The status of a report (R210). -/
def ErrorReport.status : ErrorReport → Status
  | .crcchkMismatch _ | .measMismatch _ | .snMismatch _ => .checksumMismatch
  | .measMalformed | .snMalformed => .malformedResponse
  | .illegal => .illegalRequest

/-- The bytes after the status byte (R68): fields that are not meaningful are 0. -/
def ErrorReport.body : ErrorReport → List Byte
  | .crcchkMismatch p => pairBytes [p]
  | .measMismatch p => List.replicate 4 0 ++ pairBytes [p]
  | .snMismatch ps => List.replicate 8 0 ++ [0, mismatchMask 0 ps] ++ pairBytes ps
  | .measMalformed => List.replicate 6 0
  | .snMalformed => List.replicate 22 0
  | .illegal => []

end Sys2Proof.Machine
end

