-- ==== Sys2Proof/Machine/Ops.lean ====
section
/-! DEFINITION. The named operations over the block's state: respond and raise (00_scope.md R9), reset
(70_reset_and_hazards.md R241), the host's reads (10_state.md R21, R27). There is no memory and no register file
(R20, R22), and an error is no trap: raising one writes a response and nothing else (60_exceptions.md R213). -/

namespace Sys2Proof.Machine

/-- What an operation or a host action answers. -/
abbrev Result := Host.Outcome State Fault Refusal

/-- Takes the host's next actions as given. -/
def State.withHost (s : State) (h : List HostAction) : State := { s with host := h }

/-- RSP takes a frame and RSP_VALID becomes 1, together (R21, R43). -/
def State.writeRsp (s : State) (r : Frame) : State := { s with rsp := some r, rspValid := true }

/-- respond(st, body) (R9). -/
def State.respond (s : State) (st : Status) (body : List Byte) : State := s.writeRsp (st.code :: body)

/-- raise: the response of an error (R9, R212, R213). The only "exception entry" the block has. -/
def State.raise (s : State) (e : ErrorReport) : State := s.respond e.status e.body

/-- The reset action (R240, R241). -/
def State.clear (s : State) : State := { s with rsp := none, rspValid := false }

/-- A host read of RSP (R21); while RSP holds no value it is the fault RspUnwritten, never a byte (R27, D22, I2;
log 6). -/
def State.readRsp (s : State) : Except Fault Frame :=
  match s.rspValid, s.rsp with
  | true, some r => .ok r
  | _, _ => .error .rspUnwritten

/-- A host read of RSP_VALID (R21). -/
def State.readRspValid (s : State) : Bool := s.rspValid

end Sys2Proof.Machine
end

