-- ==== Sys2Proof/Machine/Operands.lean ====
section
/-! DEFINITION. Operand assembly and the byte order of multi-byte fields (20_memory.md R41; 30_encoding.md R70), bits and
masks (00_scope.md R7, R8), and the CRC that three of the units use (40_crc8.md R100, R106). -/

namespace Sys2Proof.Machine

/-- One bit of a byte, as a byte: v[i] (R7). -/
def bitByte (v : Byte) (i : Nat) : Byte := if v.getLsbD i then 1 else 0

/-- The pair hi, lo as a 16-bit value, hi most significant (R8, R41(a)). -/
def be16 (hi lo : Byte) : Half := hi ++ lo

/-- The bytes of a 16-bit field, most significant first (R41(d)). -/
def halfBytes (v : Half) : List Byte := [v.extractLsb' 8 8, v.extractLsb' 0 8]

/-- The bytes of a 64-bit field, most significant first (R41(d), R183). -/
def serialBytes (v : Serial) : List Byte :=
  [v.extractLsb' 56 8, v.extractLsb' 48 8, v.extractLsb' 40 8, v.extractLsb' 32 8,
   v.extractLsb' 24 8, v.extractLsb' 16 8, v.extractLsb' 8 8, v.extractLsb' 0 8]

/-- s16: the two's-complement pattern of an integer (R8). -/
def s16 (v : Int) : Half := BitVec.ofInt 16 v

/-- flags[0] of format F-MEAS (R66, R70). -/
def expectCrc (flags : Byte) : Bool := flags.getLsbD 0

/-- One shift of the CRC register, with the polynomial XORed in when its high bit was set (R100). -/
def crcShift (c : Byte) : Byte := if c.getLsbD 7 then (c <<< 1) ^^^ crcPoly else c <<< 1

/-- The shift, repeated. -/
def crcShifts : Nat → Byte → Byte
  | 0, c => c
  | k + 1, c => crcShifts k (crcShift c)

/-- One data byte into the CRC register (R100). -/
def crcByte (c d : Byte) : Byte := crcShifts 8 (c ^^^ d)

/-- crc8(seed, data), data[0] first (R100). -/
def crc8 (seed : Byte) : List Byte → Byte
  | [] => seed
  | d :: ds => crc8 (crcByte seed d) ds

end Sys2Proof.Machine
end

