-- ==== Sys2Proof/Machine/Crc.lean ====
section
/-! DEFINITION. The CRC unit: CRC8 and CRCCHK (40_crc8.md R101, R102). -/

namespace Sys2Proof.Machine

/-- CRC8 (R101). -/
def execCrc8 (seed : Byte) (data : List Byte) (s : State) : Result :=
  .next (s.respond .ok [crc8 seed data])

/-- CRCCHK (R102): the response carries the computed and the received byte in either outcome. -/
def execCrcchk (seed : Byte) (data : List Byte) (rcv : Byte) (s : State) : Result :=
  let p : CrcPair := (crc8 seed data, rcv)
  .next (if crcDiffers p then s.raise (.crcchkMismatch p) else s.respond .ok (pairBytes [p]))

end Sys2Proof.Machine
end

