-- ==== Sys2Proof/Machine/Meas.lean ====
section
/-! DEFINITION. The MEAS unit: the measurement raw-to-physical converter (42_measurement.md R150 to R154). Exact integer
arithmetic, rounded once; no clamp, no masking, no dependence on the resolution (R157). -/

namespace Sys2Proof.Machine

/-- Round half away from zero of n / d (R150). -/
def rha (n : Int) (d : Nat) : Int :=
  if 0 ≤ n then (n + d / 2) / d else -((-n + d / 2) / d)

/-- Relative humidity in hundredths of a percent (R151). -/
def rhCenti (raw : Half) : Int := rha ((raw.toNat : Int) * 12500 - 39321600) convDivisor

/-- Temperature in hundredths of a degree Celsius (R151). -/
def tCenti (raw : Half) : Int := rha ((raw.toNat : Int) * 17572 - 307036160) convDivisor

/-- What measure_check finds (R152). -/
inductive MeasCheck where
  | malformed
  | mismatch (p : CrcPair)
  | good (hi lo : Byte) (p : CrcPair)
  deriving DecidableEq, Repr

/-- measure_check (R152): the byte count first, then the CRC over the two raw bytes when one is expected. Without a CRC
the pair is 0, 0. -/
def measureCheck : Bool → List Byte → MeasCheck
  | false, [hi, lo] => .good hi lo (0, 0)
  | true, [hi, lo, act] =>
    let p : CrcPair := (crc8 crcSeedStart [hi, lo], act)
    if crcDiffers p then .mismatch p else .good hi lo p
  | _, _ => .malformed

/-- What MEASRH and MEAST share (R153, R154): only the conversion differs. -/
def convertReply (conv : Half → Int) (flags : Byte) (b : List Byte) (s : State) : State :=
  match measureCheck (expectCrc flags) b with
  | .malformed => s.raise .measMalformed
  | .mismatch p => s.raise (.measMismatch p)
  | .good hi lo p => s.respond .ok ([hi, lo] ++ halfBytes (s16 (conv (be16 hi lo))) ++ pairBytes [p])

/-- MEASRH (R153). -/
def execMeasrh (flags : Byte) (b : List Byte) (s : State) : Result := .next (convertReply rhCenti flags b s)

/-- MEAST (R154). -/
def execMeast (flags : Byte) (b : List Byte) (s : State) : Result := .next (convertReply tCenti flags b s)

end Sys2Proof.Machine
end

