-- ==== Sys2Proof/Machine/Reg.lean ====
section
/-! DEFINITION. The REG unit: the User Register and Heater register codecs (41_register_codec.md R120 to R126). It holds no
copy of either register. -/

namespace Sys2Proof.Machine

/-- The resolution code of a User Register byte (R120, R121; log 8). -/
def resolutionOf (u : Byte) : Byte := (bitByte u 7 <<< 1) ||| bitByte u 0

/-- heaterEnabled of a User Register byte (R120). -/
def heaterOf (u : Byte) : Byte := bitByte u 2

/-- voltageLow of a User Register byte (R120). -/
def voltageLowOf (u : Byte) : Byte := bitByte u 6

/-- RESBITS: the register bits of a resolution code (R121; log 8). -/
def resBits (c : Byte) : Byte := ((c >>> 1) <<< 7) ||| (c &&& 1)

/-- The read-modify-write merge of a field with mask m (R123). -/
def merge (cur m f : Byte) : Byte := (cur &&& ~~~m) ||| (f &&& m)

/-- The User Register byte with another resolution (R122). -/
def withResolution (cur res : Byte) : Byte := merge cur resolutionMask (resBits res)

/-- The User Register byte with another heaterEnabled (R124). -/
def withHeater (cur en : Byte) : Byte := merge cur heaterMask (en <<< 2)

/-- UREGDEC (R120). -/
def execUregdec (u : Byte) (s : State) : Result :=
  .next (s.respond .ok [resolutionOf u, heaterOf u, voltageLowOf u])

/-- UREGRES (R122, R77). -/
def execUregres (cur res : Byte) (s : State) : Result :=
  .next (s.respond .ok [writeUserReg, withResolution cur res])

/-- UREGHTR (R124, R77). -/
def execUreghtr (cur en : Byte) (s : State) : Result :=
  .next (s.respond .ok [writeUserReg, withHeater cur en])

/-- HTRDEC (R125; log 9). -/
def execHtrdec (h : Byte) (s : State) : Result :=
  .next (s.respond .ok [h &&& levelMask])

/-- HTRENC (R126, R77; log 9): a level above 15 is masked, not refused. -/
def execHtrenc (level : Byte) (s : State) : Result :=
  .next (s.respond .ok [writeHeaterReg, level &&& levelMask])

end Sys2Proof.Machine
end

