-- ==== Sys2Proof/Machine/Sn.lean ====
section
/-! DEFINITION. The SN unit: the serial-number CRC chain, the serial and the sensor type (43_serial_number.md R180 to
R184). -/

namespace Sys2Proof.Machine

/-- The fourteen bytes of the two ID replies, by their names (R180; 30_encoding.md R76). -/
structure IdReply where
  sna3 : Byte
  crcA3 : Byte
  sna2 : Byte
  crcA2 : Byte
  sna1 : Byte
  crcA1 : Byte
  sna0 : Byte
  crcA0 : Byte
  snb3 : Byte
  snb2 : Byte
  crcB2 : Byte
  snb1 : Byte
  snb0 : Byte
  crcB0 : Byte
  deriving DecidableEq, Repr

/-- Reads the two replies; none when a count is not 8 or 6 (R183). -/
def readReply : List Byte → List Byte → Option IdReply
  | [a0, a1, a2, a3, a4, a5, a6, a7], [b0, b1, b2, b3, b4, b5] =>
    some ⟨a0, a1, a2, a3, a4, a5, a6, a7, b0, b1, b2, b3, b4, b5⟩
  | _, _ => none

/-- The six chain checks: the seed of each check after the first of its group is the RECEIVED CRC byte before it
(R180; 90_conflicts.md C2). -/
def chainPairs (r : IdReply) : List CrcPair :=
  [(crc8 crcSeedStart [r.sna3], r.crcA3),
   (crc8 r.crcA3 [r.sna2], r.crcA2),
   (crc8 r.crcA2 [r.sna1], r.crcA1),
   (crc8 r.crcA1 [r.sna0], r.crcA0),
   (crc8 crcSeedStart [r.snb3, r.snb2], r.crcB2),
   (crc8 r.crcB2 [r.snb1, r.snb0], r.crcB0)]

/-- The 64-bit serial, SNA3 in bits 63:56 and SNB0 in bits 7:0 (R182, R41(c)). -/
def serialOf (r : IdReply) : Serial :=
  r.sna3 ++ r.sna2 ++ r.sna1 ++ r.sna0 ++ r.snb3 ++ r.snb2 ++ r.snb1 ++ r.snb0

/-- The sensor types (R182). -/
inductive SensorType where
  | unknown | engineeringSample | si7013 | si7020 | si7021
  deriving DecidableEq, Repr

/-- The type codes (R182). -/
def SensorType.code : SensorType → Byte
  | .unknown => 0x00
  | .engineeringSample => 0x01
  | .si7013 => 0x02
  | .si7020 => 0x03
  | .si7021 => 0x04

/-- stype: the type from SNB3 alone (R182). -/
def sensorType (x : Byte) : SensorType :=
  if x = 0x00 ∨ x = 0xFF then .engineeringSample
  else if x = 0x0D then .si7013
  else if x = 0x14 then .si7020
  else if x = 0x15 then .si7021
  else .unknown

/-- What SNCHK does with a reply of the right counts (R183). -/
def judgeReply (r : IdReply) (s : State) : State :=
  if mismatchMask 0 (chainPairs r) != 0 then s.raise (.snMismatch (chainPairs r))
  else s.respond .ok (serialBytes (serialOf r) ++ [(sensorType r.snb3).code, 0] ++ pairBytes (chainPairs r))

/-- SNCHK (R183). -/
def execSnchk (a b : List Byte) (s : State) : Result :=
  .next (match readReply a b with
    | some r => judgeReply r s
    | none => s.raise .snMalformed)

/-- SNTYPE (R184). -/
def execSntype (x : Byte) (s : State) : Result := .next (s.respond .ok [(sensorType x).code])

end Sys2Proof.Machine
end

