-- ==== Sys2Proof/Machine/Dispatch.lean ====
section
/-! DEFINITION. One arm per operation of the opcode map (30_encoding.md R61). -/

namespace Sys2Proof.Machine

def exec (i : Instr) (s : State) : Host.Outcome State Fault Refusal :=
  match i with
  | .crc8 seed data => Sys2Proof.Machine.execCrc8 seed data s
  | .crcchk seed data rcv => Sys2Proof.Machine.execCrcchk seed data rcv s
  | .uregdec u => Sys2Proof.Machine.execUregdec u s
  | .uregres cur res => Sys2Proof.Machine.execUregres cur res s
  | .ureghtr cur en => Sys2Proof.Machine.execUreghtr cur en s
  | .htrdec h => Sys2Proof.Machine.execHtrdec h s
  | .htrenc level => Sys2Proof.Machine.execHtrenc level s
  | .measrh flags b => Sys2Proof.Machine.execMeasrh flags b s
  | .meast flags b => Sys2Proof.Machine.execMeast flags b s
  | .snchk a b => Sys2Proof.Machine.execSnchk a b s
  | .sntype x => Sys2Proof.Machine.execSntype x s

end Sys2Proof.Machine
end

