-- ==== Sys2Proof/Machine/Port.lean ====
section
/-! DEFINITION. The operation port and the reset input: what each host action does to the block (30_encoding.md R60,
R69; 10_state.md R21, R27; 70_reset_and_hazards.md R240). Step.lean only calls what stands here. -/

namespace Sys2Proof.Machine

/-- Executes a request frame in one step (R60): a legal one by its operation's meaning, an illegal one by the response
ILLEGAL_REQUEST (R69, R71). -/
def serve (q : Frame) (s : State) : Result :=
  match decode q with
  | .ok i => exec i s
  | .error _ => .next (s.raise .illegal)

/-- A host read of RSP: no side effect, or the fault RspUnwritten (R21, R27). DESIGN CHOICE, safe: the fault ends the run;
R27 does not say what follows it, and 95_test_vectors.md P5 goes on with a request (log 16). -/
def hostReadRsp (s : State) : Result :=
  match s.readRsp with
  | .ok _ => .next s
  | .error f => .fault f

/-- One host action on the block. Reset discards the request in flight, if there is one, without a response (R240). -/
def hostAct (a : HostAction) (s : State) : Result :=
  match a with
  | .submit q => serve q s
  | .assertReset _ => .next s.clear
  | .readRsp => hostReadRsp s
  | .readRspValid => .next s

/-- One step: the host's oldest action, or nothing while the host does nothing (R44; log 4). -/
def advance (s : State) : Result :=
  match s.host with
  | [] => .next s
  | a :: rest => hostAct a (s.withHost rest)

/-- The state in which the host submits the frame next (log 3). -/
def State.presenting (s : State) (q : Frame) : State := s.withHost (.submit q :: s.host)

end Sys2Proof.Machine
end

