-- ==== Sys2Proof/Machine/Step.lean ====
section
/-! DEFINITION. One step of the machine, and how the host of this pipeline presents a word of the opcode table. -/

namespace Sys2Proof.Machine

/-- One step (00_scope.md R5, R10). -/
def step (s : State) : Host.Outcome State Fault Refusal := advance s

/-- The table word's request frame as the host's next submission; the block fetches nothing (10_state.md R23; log 3). -/
def State.withFetchWord (s : State) (nbits w : Nat) : State := s.presenting (frameOfTableWord nbits w)

end Sys2Proof.Machine
end

