-- ==== Sys2Proof/Machine/Assembler.lean ====
section
/-! DEFINITION. The assembler (30_encoding.md R73) and the pseudo-instructions (R74): statements, their frames, and the
reading of one line of text. A notation for requests: no step reads it. -/

namespace Sys2Proof.Machine

/-- Why the assembler rejects a line (R73; log 12). -/
inductive AsmError where
  /-- A number outside 0..255. -/
  | byteRange
  /-- A value of UREGRES or UREGHTR outside its range. -/
  | fieldRange
  /-- A list longer than its 8-bit count. -/
  | listLength
  /-- The line is no statement. -/
  | badLine
  deriving DecidableEq, Repr

/-- A statement, its numbers as written (R73), with the one-frame pseudo-instructions (R74). -/
inductive AsmStmt where
  | crc8 (seed : Nat) (d : List Nat)
  | crcchk (seed : Nat) (d : List Nat) (rcv : Nat)
  | uregdec (u : Nat)
  | uregres (cur res : Nat)
  | ureghtr (cur en : Nat)
  | htrdec (h : Nat)
  | htrenc (level : Nat)
  | measrh (crc : Bool) (b : List Nat)
  | meast (crc : Bool) (b : List Nat)
  | snchk (a b : List Nat)
  | sntype (x : Nat)
  | cvtrh (r16 : Nat)
  | cvtt (r16 : Nat)
  deriving DecidableEq, Repr

/-- A line: a statement, or the chain whose later seeds the host carries (R74). -/
inductive AsmLine where
  | stmt (st : AsmStmt)
  | crcchain (seed : Nat) (d : List Nat)
  deriving DecidableEq, Repr

/-- A number as a byte (R73). -/
def asmByte (n : Nat) : Except AsmError Byte := if n < 256 then .ok (BitVec.ofNat 8 n) else .error .byteRange

/-- A list of numbers as bytes (R73). -/
def asmBytes : List Nat → Except AsmError (List Byte)
  | [] => .ok []
  | n :: ns =>
    match asmByte n, asmBytes ns with
    | .ok b, .ok bs => .ok (b :: bs)
    | .error e, _ => .error e
    | _, .error e => .error e

/-- A counted list (R73; log 12). -/
def asmList (ns : List Nat) : Except AsmError (List Byte) :=
  if ns.length ≤ 255 then asmBytes ns else .error .listLength

/-- A number with an upper bound of its own (R73). -/
def asmField (top n : Nat) : Except AsmError Byte :=
  if n ≤ top then .ok (BitVec.ofNat 8 n) else if n < 256 then .error .fieldRange else .error .byteRange

/-- The byte of the .crc suffix (R73). -/
def crcFlag (crc : Bool) : Byte := if crc then 1 else 0

/-- The pseudo-instructions expanded (R74). -/
def AsmStmt.expand : AsmStmt → AsmStmt
  | .cvtrh r16 => .measrh false [r16 / 256, r16 % 256]
  | .cvtt r16 => .meast false [r16 / 256, r16 % 256]
  | st => st

/-- The operation of a statement (R73, R74). -/
def AsmStmt.toInstr (st : AsmStmt) : Except AsmError Instr :=
  match st.expand with
  | .crc8 seed d => do return .crc8 (← asmByte seed) (← asmList d)
  | .crcchk seed d rcv => do return .crcchk (← asmByte seed) (← asmList d) (← asmByte rcv)
  | .uregdec u => do return .uregdec (← asmByte u)
  | .uregres cur res => do return .uregres (← asmByte cur) (← asmField 3 res)
  | .ureghtr cur en => do return .ureghtr (← asmByte cur) (← asmField 1 en)
  | .htrdec h => do return .htrdec (← asmByte h)
  | .htrenc level => do return .htrenc (← asmByte level)
  | .measrh crc b => do return .measrh (crcFlag crc) (← asmList b)
  | .meast crc b => do return .meast (crcFlag crc) (← asmList b)
  | .snchk a b => do return .snchk (← asmList a) (← asmList b)
  | .sntype x => do return .sntype (← asmByte x)
  | .cvtrh _ | .cvtt _ => .error .badLine

/-- The request frame of a statement (R73). -/
def AsmStmt.assemble (st : AsmStmt) : Except AsmError Frame :=
  match st.toInstr with
  | .ok i => .ok (encode i)
  | .error e => .error e

/-- The requests of crcchain (R74): the host reads each seed after the first from the response before it. -/
def crcchainRequests : Byte → List Byte → State → List Frame
  | _, [], _ => []
  | seed, d :: ds, s =>
    encode (.crc8 seed [d]) ::
      match serve (encode (.crc8 seed [d])) s with
      | .next t =>
        match t.readRsp with
        | .ok [_, crc] => crcchainRequests crc ds t
        | _ => []
      | _ => []

/-- A token of a line. -/
inductive Token where
  | word (w : List Char)
  | num (n : Nat)
  | comma | openList | closeList
  deriving DecidableEq, Repr

/-- The value of a digit, hexadecimal ones of either case among them; none for another character. -/
def digitOf (c : Char) : Option Nat :=
  if 48 ≤ c.toNat ∧ c.toNat ≤ 57 then some (c.toNat - 48)
  else if 97 ≤ c.toNat ∧ c.toNat ≤ 102 then some (c.toNat - 87)
  else if 65 ≤ c.toNat ∧ c.toNat ≤ 70 then some (c.toNat - 55)
  else none

/-- The value of the digits in a base, after what was read so far; none without a digit or with one too large. -/
def digitsValue (base : Nat) : Option Nat → List Char → Option Nat
  | acc, [] => acc
  | acc, c :: cs =>
    match digitOf c with
    | some d => if d < base then digitsValue base (some (acc.getD 0 * base + d)) cs else none
    | none => none

/-- A decimal or 0x number (R73). -/
def numberOf : List Char → Option Nat
  | '0' :: 'x' :: ds => digitsValue 16 none ds
  | ds => digitsValue 10 none ds

/-- The token of a finished run of letters, digits, dots and underscores: a number where it starts with a digit. -/
def closeToken (w : List Char) : Except AsmError (List Token) :=
  match w with
  | [] => .ok []
  | c :: _ =>
    if 48 ≤ c.toNat ∧ c.toNat ≤ 57 then
      match numberOf w with
      | some n => .ok [.num n]
      | none => .error .badLine
    else .ok [.word w]

/-- The token of a single character, if it is one: comma and the two braces of a list. -/
def punctuation (c : Char) : Option Token :=
  if c.toNat = 44 then some .comma
  else if c.toNat = 123 then some .openList
  else if c.toNat = 125 then some .closeList
  else none

/-- The tokens of a line; run holds the unfinished word, last character first. -/
def tokens : List Char → List Char → Except AsmError (List Token)
  | run, [] => closeToken run.reverse
  | run, c :: cs =>
    if c.toNat = 32 ∨ c.toNat = 9 then do return (← closeToken run.reverse) ++ (← tokens [] cs)
    else
      match punctuation c with
      | some t => do return (← closeToken run.reverse) ++ t :: (← tokens [] cs)
      | none => tokens (c :: run) cs

/-- An operand of a statement. -/
inductive Operand where
  | num (n : Nat)
  | name (w : List Char)
  | list (ns : List Nat)
  deriving DecidableEq, Repr

/-- Where the reading of a statement's operands stands; a list's numbers come last first. -/
inductive OperandPlace where
  | atStart
  | afterComma
  | afterOperand
  | listStart
  | listNumber (ns : List Nat)
  | listComma (ns : List Nat)
  deriving DecidableEq, Repr

/-- Reads the operands: separated by commas, a list's numbers between braces (R73). done holds the operands read so far,
last first. -/
def readOperands : OperandPlace → List Operand → List Token → Except AsmError (List Operand)
  | .atStart, [], [] => .ok []
  | .afterOperand, done, [] => .ok done.reverse
  | .atStart, done, .num n :: ts => readOperands .afterOperand (.num n :: done) ts
  | .afterComma, done, .num n :: ts => readOperands .afterOperand (.num n :: done) ts
  | .atStart, done, .word w :: ts => readOperands .afterOperand (.name w :: done) ts
  | .afterComma, done, .word w :: ts => readOperands .afterOperand (.name w :: done) ts
  | .atStart, done, .openList :: ts => readOperands .listStart done ts
  | .afterComma, done, .openList :: ts => readOperands .listStart done ts
  | .afterOperand, done, .comma :: ts => readOperands .afterComma done ts
  | .listStart, done, .closeList :: ts => readOperands .afterOperand (.list [] :: done) ts
  | .listStart, done, .num n :: ts => readOperands (.listNumber [n]) done ts
  | .listNumber ns, done, .closeList :: ts => readOperands .afterOperand (.list ns.reverse :: done) ts
  | .listNumber ns, done, .comma :: ts => readOperands (.listComma ns) done ts
  | .listComma ns, done, .num n :: ts => readOperands (.listNumber (n :: ns)) done ts
  | _, _, _ => .error .badLine

/-- The names of the resolution codes (R73, R121; log 8). -/
def resolutionName (w : List Char) : Option Nat :=
  if w = "rh12_t14".toList then some 0
  else if w = "rh8_t12".toList then some 1
  else if w = "rh10_t13".toList then some 2
  else if w = "rh11_t11".toList then some 3
  else none

/-- The names of the enable values (R73). -/
def enableName (w : List Char) : Option Nat :=
  if w = "off".toList then some 0 else if w = "on".toList then some 1 else none

/-- An operand that is a number or one of the given names. -/
def numberOrName (names : List Char → Option Nat) : Operand → Except AsmError Nat
  | .num n => .ok n
  | .name w =>
    match names w with
    | some n => .ok n
    | none => .error .badLine
  | .list _ => .error .badLine

/-- The statement of a mnemonic with its operands; mnemonics are lower case (R73, R74). -/
def statementOf (mnemonic : List Char) (ops : List Operand) : Except AsmError AsmLine :=
  let m := fun (w : String) => mnemonic == w.toList
  match ops with
  | [.num n] =>
    if m "uregdec" then .ok (.stmt (.uregdec n))
    else if m "htrdec" then .ok (.stmt (.htrdec n))
    else if m "htrenc" then .ok (.stmt (.htrenc n))
    else if m "sntype" then .ok (.stmt (.sntype n))
    else if m "cvtrh" then .ok (.stmt (.cvtrh n))
    else if m "cvtt" then .ok (.stmt (.cvtt n))
    else .error .badLine
  | [.list b] =>
    if m "measrh" then .ok (.stmt (.measrh false b))
    else if m "measrh.crc" then .ok (.stmt (.measrh true b))
    else if m "meast" then .ok (.stmt (.meast false b))
    else if m "meast.crc" then .ok (.stmt (.meast true b))
    else .error .badLine
  | [.num seed, .list d] =>
    if m "crc8" then .ok (.stmt (.crc8 seed d))
    else if m "crcchain" then .ok (.crcchain seed d)
    else .error .badLine
  | [.num seed, .list d, .num rcv] => if m "crcchk" then .ok (.stmt (.crcchk seed d rcv)) else .error .badLine
  | [.list a, .list b] => if m "snchk" then .ok (.stmt (.snchk a b)) else .error .badLine
  | [.num cur, v] =>
    if m "uregres" then do return .stmt (.uregres cur (← numberOrName resolutionName v))
    else if m "ureghtr" then do return .stmt (.ureghtr cur (← numberOrName enableName v))
    else .error .badLine
  | _ => .error .badLine

/-- Reads one line (R73). -/
def parseLine (line : List Char) : Except AsmError AsmLine :=
  match tokens [] line with
  | .ok (.word m :: ts) =>
    match readOperands .atStart [] ts with
    | .ok ops => statementOf m ops
    | .error e => .error e
  | .ok _ => .error .badLine
  | .error e => .error e

end Sys2Proof.Machine
end

