-- ==== Sys2Proof/Machine/Catalog.lean ====
section
/-! DEFINITION. Host-side plain data, read by no step: the sensor's command catalog (30_encoding.md R75), its reply layouts
(R76), which operation takes which reply (70_reset_and_hazards.md R248), the waits a command asks of the host (R246, R247)
and the command sequences of one logical operation (R250). -/

namespace Sys2Proof.Machine

/-- The operations of the sensor's command catalog (R75). -/
inductive SensorCommand where
  | humidityHold | humidityNoHold | temperatureHold | temperatureNoHold | temperatureFromPrevious
  | reset | writeUserReg | readUserReg | writeHeaterReg | readHeaterReg
  | readIdPart1 | readIdPart2 | readFirmwareRev
  deriving DecidableEq, Repr

/-- The wire bytes of a command (R75). -/
def SensorCommand.wire : SensorCommand → List Byte
  | .humidityHold => [0xE5]
  | .humidityNoHold => [0xF5]
  | .temperatureHold => [0xE3]
  | .temperatureNoHold => [0xF3]
  | .temperatureFromPrevious => [0xE0]
  | .reset => [0xFE]
  | .writeUserReg => [Sys2Proof.Machine.writeUserReg]
  | .readUserReg => [0xE7]
  | .writeHeaterReg => [Sys2Proof.Machine.writeHeaterReg]
  | .readHeaterReg => [0x11]
  | .readIdPart1 => [0xFA, 0x0F]
  | .readIdPart2 => [0xFC, 0xC9]
  | .readFirmwareRev => [0x84, 0xB8]

/-- The reply lengths the catalog gives (R75): some [] is "no reply", none is "not stated in the source". -/
def SensorCommand.replyLengths : SensorCommand → Option (List Nat)
  | .humidityHold | .humidityNoHold | .temperatureHold | .temperatureNoHold => some [2, 3]
  | .temperatureFromPrevious => some [2]
  | .reset | .writeUserReg | .writeHeaterReg => some []
  | .readUserReg | .readHeaterReg => some [1]
  | .readIdPart1 => some [8]
  | .readIdPart2 => some [6]
  | .readFirmwareRev => none

/-- The operations that produce a write command's frame (R75, R77). -/
def SensorCommand.producers : SensorCommand → List Opcode
  | .writeUserReg => [.uregres, .ureghtr]
  | .writeHeaterReg => [.htrenc]
  | _ => []

/-- The commands whose reply may carry a CRC byte: hold master mode only (R248; which of the two are CRC-bearing is not
in the source, 91_not_in_source.md N6). -/
def SensorCommand.mayCarryCrc : SensorCommand → Bool
  | .humidityHold | .temperatureHold => true
  | _ => false

/-- The operation that takes the one reply of a command (R75, R248); withCrc is the host's flags[0]. The two ID replies
go together into one SNCHK: see idRequest. -/
def SensorCommand.request (c : SensorCommand) (withCrc : Bool) (reply : List Byte) : Option Instr :=
  match c, reply with
  | .humidityHold, b => some (.measrh (if withCrc then 1 else 0) b)
  | .humidityNoHold, b => some (.measrh 0 b)
  | .temperatureHold, b => some (.meast (if withCrc then 1 else 0) b)
  | .temperatureNoHold, b => some (.meast 0 b)
  | .temperatureFromPrevious, b => some (.meast 0 b)
  | .readUserReg, [u] => some (.uregdec u)
  | .readHeaterReg, [h] => some (.htrdec h)
  | _, _ => none

/-- The request for the two ID replies (R75, R250). -/
def idRequest (part1 part2 : List Byte) : Instr := .snchk part1 part2

/-- The least wait, in milliseconds, before the host goes on: before the next command after reset (R246), before the read
after a measurement command (R247); temperature-from-previous takes no conversion delay (R248). -/
def SensorCommand.waitMs : SensorCommand → Nat
  | .reset => 15
  | .humidityHold | .humidityNoHold | .temperatureHold | .temperatureNoHold => 23
  | _ => 0

/-- The general-knowledge default of USER_REG_RESET (R6, R30; 93_implementation_defined.md K5); nothing rests on it, and
Config.userRegReset stays open (log 7). -/
def userRegResetDefault : Byte := 0x3A

/-- The general-knowledge default of HEATER_REG_RESET (R6, R30; K5); nothing rests on it (log 7). -/
def heaterRegResetDefault : Byte := 0x00

/-- The sub-transactions of the logical operations, in their order (R249, R250). -/
def registerChangeCommands : List SensorCommand := [.readUserReg, .writeUserReg]

/-- The serial-number read (R250). -/
def serialReadCommands : List SensorCommand := [.readIdPart1, .readIdPart2]

/-- The paired humidity and temperature read (R248, R250), in hold or no-hold master mode (R158). -/
def pairedReadCommands (hold : Bool) : List SensorCommand :=
  [if hold then .humidityHold else .humidityNoHold, .temperatureFromPrevious]

end Sys2Proof.Machine
end

