-- ==== Sys2Proof/Machine/HostContract.lean ====
section
/-! DEFINITION. Host-side, read by no step: the register-value cache of a host that keeps one (70_reset_and_hazards.md
R251, R252) and its read-modify-write of the User Register and write of the Heater register through the block (R249). -/

namespace Sys2Proof.Machine

/-- The host's cache of the User Register (R251). -/
inductive HostCache where
  | fresh
  | cached (b : Byte)
  deriving DecidableEq, Repr

/-- Reads the User Register: a hit does no bus transaction; a miss takes the byte the bus returns and keeps it (R251). -/
def HostCache.obtain (c : HostCache) (bus : Byte) : Byte × HostCache :=
  match c with
  | .cached b => (b, .cached b)
  | .fresh => (bus, .cached bus)

/-- A completed write of the User Register (R249, R251). -/
def HostCache.wrote (_ : HostCache) (new : Byte) : HostCache := .cached new

/-- Back to Fresh: an explicit invalidation, a status query, a sensor reset (R246, R251), an aborted write or a transport
failure (R251, R252). -/
def HostCache.invalidate (_ : HostCache) : HostCache := .fresh

/-- The two fields a host changes by read-modify-write (R249). -/
inductive RegisterChange where
  | resolution (res : Byte)
  | heater (en : Byte)
  deriving DecidableEq, Repr

/-- The block's part of the change, given the current byte (R249, step 2). -/
def RegisterChange.request (c : RegisterChange) (cur : Byte) : Instr :=
  match c with
  | .resolution res => .uregres cur res
  | .heater en => .ureghtr cur en

/-- The sensor write frame in an OK response of UREGRES, UREGHTR or HTRENC; the host transmits it unchanged (R77). -/
def sensorWrite : Frame → Option (List Byte)
  | [0x00, cmd, v] => some [cmd, v]
  | _ => none

/-- What the host transmits to the sensor and keeps in its cache after a change (R249, all four steps), and the block's
state; none when the block turned the request away. -/
def changeRegister (c : RegisterChange) (cache : HostCache) (bus : Byte) (s : State) :
    Option (List Byte × HostCache × State) :=
  match serve (encode (c.request (cache.obtain bus).1)) s with
  | .next t =>
    match t.readRsp with
    | .ok r =>
      match sensorWrite r with
      | some [cmd, new] => some ([cmd, new], cache.wrote new, t)
      | _ => none
    | .error _ => none
  | _ => none

/-- What the host transmits to set the heater level, and the block's state (R249). -/
def writeHeaterLevel (level : Byte) (s : State) : Option (List Byte × State) :=
  match serve (encode (.htrenc level)) s with
  | .next t =>
    match t.readRsp with
    | .ok r => (sensorWrite r).map (fun w => (w, t))
    | .error _ => none
  | _ => none

end Sys2Proof.Machine
end

