-- ==== Sys2Proof/Safety.lean ====
section
/-! DEFINITION. The terms the claims use: what it means that a frame gets a response, which states are legal, the
observation of a run (70_reset_and_hazards.md R253), and the spec's formulas written a second time, in plain numbers and
from the rules' own words, so that a claim does not repeat the model. No step reads anything here. -/

namespace Sys2Proof.Safety

open Sys2Proof.Machine

/-- The state after a response: RSP and RSP_VALID written, nothing else (R9, R10). -/
def answered (s : State) (r : Frame) : State := { s with rsp := some r, rspValid := true }

/-- Whatever the state, the request frame q gets the response r in one step, and nothing else changes (R43, R60). -/
def Responds (q r : Frame) : Prop :=
  ∀ (s : State) (rest : List HostAction),
    step { s with host := .submit q :: rest } = .next { rsp := some r, rspValid := true, host := rest }

/-- The operation completes with the response r from every state, and changes nothing else (R10). -/
def Completes (i : Instr) (r : Frame) : Prop := ∀ s : State, exec i s = .next (answered s r)

/-- A counted list with its count byte before it (R70). -/
def counted (l : List Byte) : Frame := BitVec.ofNat 8 l.length :: l

/-- A byte of a frame as a number; 0 where the frame has none. -/
def num (q : Frame) (k : Nat) : Nat := (q.getD k 0).toNat

/-- R69's pseudocode: is the frame a legal request? -/
def legalRequest (q : Frame) : Bool :=
  if q.length = 0 then false
  else if num q 0 = 0x01 then q.length ≥ 3 && q.length = 3 + num q 2
  else if num q 0 = 0x02 then q.length ≥ 3 && q.length = 4 + num q 2
  else if num q 0 = 0x03 ∨ num q 0 = 0x06 ∨ num q 0 = 0x07 ∨ num q 0 = 0x0B then q.length = 2
  else if num q 0 = 0x04 then q.length = 3 && num q 2 ≤ 3
  else if num q 0 = 0x05 then q.length = 3 && num q 2 ≤ 1
  else if num q 0 = 0x08 ∨ num q 0 = 0x09 then q.length ≥ 3 && q.length = 3 + num q 2 && num q 1 ≤ 1
  else if num q 0 = 0x0A then
    q.length ≥ 2 && q.length ≥ 3 + num q 1 && q.length = 3 + num q 1 + num q (2 + num q 1)
  else false

/-- The operation's operands are the fields its format names, at the places the format gives (R62 to R67, R70). -/
def FieldsOf (q : Frame) : Instr → Prop
  | .crc8 seed d => num q 0 = 0x01 ∧ q.length = 3 + num q 2 ∧ seed = q.getD 1 0 ∧ d = q.drop 3
  | .crcchk seed d rcv =>
    num q 0 = 0x02 ∧ q.length = 4 + num q 2 ∧ seed = q.getD 1 0 ∧ d = (q.drop 3).take (num q 2)
      ∧ rcv = q.getD (3 + num q 2) 0
  | .uregdec u => q = [0x03, u]
  | .uregres cur res => q = [0x04, cur, res] ∧ res.toNat ≤ 3
  | .ureghtr cur en => q = [0x05, cur, en] ∧ en.toNat ≤ 1
  | .htrdec h => q = [0x06, h]
  | .htrenc level => q = [0x07, level]
  | .measrh flags b =>
    num q 0 = 0x08 ∧ q.length = 3 + num q 2 ∧ flags = q.getD 1 0 ∧ flags.toNat ≤ 1 ∧ b = q.drop 3
  | .meast flags b =>
    num q 0 = 0x09 ∧ q.length = 3 + num q 2 ∧ flags = q.getD 1 0 ∧ flags.toNat ≤ 1 ∧ b = q.drop 3
  | .snchk a b =>
    num q 0 = 0x0A ∧ q.length = 3 + num q 1 + num q (2 + num q 1) ∧ a = (q.drop 2).take (num q 1)
      ∧ b = q.drop (3 + num q 1)
  | .sntype x => q = [0x0B, x]

/-- The two bytes of an integer in s16, most significant first (R8, R41(d)). -/
def s16Bytes (v : ℤ) : List Byte := [BitVec.ofInt 8 (v / 256), BitVec.ofInt 8 v]

/-- What R153 and R154 say of MEASRH and MEAST, which differ in the opcode and the conversion alone: the response to a
good reply without and with its CRC, to a CRC mismatch, to a wrong count, and to an illegal frame. -/
def MeasuresBy (op : Byte) (mk : Byte → List Byte → Instr) (conv : Half → ℤ) : Prop :=
  (∀ hi lo : Byte,
    let r := [0x00, hi, lo] ++ s16Bytes (conv (BitVec.ofNat 16 (hi.toNat * 256 + lo.toNat))) ++ [0x00, 0x00]
    Completes (mk 0 [hi, lo]) r ∧ Responds [op, 0x00, 0x02, hi, lo] r)
  ∧ (∀ hi lo : Byte,
    let c := crc8 0x00 [hi, lo]
    let r := [0x00, hi, lo] ++ s16Bytes (conv (BitVec.ofNat 16 (hi.toNat * 256 + lo.toNat))) ++ [c, c]
    Completes (mk 1 [hi, lo, c]) r ∧ Responds [op, 0x01, 0x03, hi, lo, c] r)
  ∧ (∀ hi lo act : Byte, crc8 0x00 [hi, lo] ≠ act →
    let r := [0x01, 0, 0, 0, 0, crc8 0x00 [hi, lo], act]
    Completes (mk 1 [hi, lo, act]) r ∧ Responds [op, 0x01, 0x03, hi, lo, act] r)
  ∧ (∀ (flags : Byte) (b : List Byte), flags.toNat ≤ 1 → b.length ≤ 255 → b.length ≠ 2 + flags.toNat →
    Completes (mk flags b) [0x02, 0, 0, 0, 0, 0, 0]
      ∧ Responds ([op, flags] ++ counted b) [0x02, 0, 0, 0, 0, 0, 0])
  ∧ (∀ q : Frame, q.head? = some op → (q.length < 3 ∨ q.length ≠ 3 + num q 2 ∨ 1 < num q 1) → Responds q [0x03])

/-- The response lengths of R68 and R211: none where the operation never yields the status. -/
def responseLength : Opcode → Status → Option Nat
  | _, .illegalRequest => some 1
  | .crc8, .ok => some 2
  | .crcchk, .ok => some 3
  | .crcchk, .checksumMismatch => some 3
  | .uregdec, .ok => some 4
  | .uregres, .ok => some 3
  | .ureghtr, .ok => some 3
  | .htrdec, .ok => some 2
  | .htrenc, .ok => some 3
  | .measrh, .ok | .measrh, .checksumMismatch | .measrh, .malformedResponse => some 7
  | .meast, .ok | .meast, .checksumMismatch | .meast, .malformedResponse => some 7
  | .snchk, .ok | .snchk, .checksumMismatch | .snchk, .malformedResponse => some 23
  | .sntype, .ok => some 2
  | .crc8, _ | .uregdec, _ | .uregres, _ | .ureghtr, _ | .htrdec, _ | .htrenc, _ | .sntype, _ => none
  | .crcchk, .malformedResponse => none

/-- The first n bytes are 0. -/
def zeros (n : Nat) (l : List Byte) : Bool := l.take n == List.replicate n 0

/-- A response frame has one of the layouts of R68, with its fields of no meaning 0 and its mask, if it has one, not 0
and below 0x40 (R68, R181, R210). -/
def legalResponse : Frame → Bool
  | [] => false
  | st :: b =>
    if st = 0x00 then b.length ∈ [1, 2, 3, 6] || (b.length = 22 && b.getD 9 0 == 0)
    else if st = 0x01 then
      b.length = 2 || (b.length = 6 && zeros 4 b) ||
        (b.length = 22 && zeros 9 b && b.getD 9 0 != 0 && (b.getD 9 0).toNat < 0x40)
    else if st = 0x02 then b == List.replicate 6 0 || b == List.replicate 22 0
    else st = 0x03 && b == []

/-- RSP holds a response exactly while RSP_VALID is 1, and then a frame of R68's layouts (R21, R26, R27, R68). -/
def Legal (s : State) : Bool :=
  match s.rspValid, s.rsp with
  | false, none => true
  | true, some r => legalResponse r
  | _, _ => false

/-- The responses of a run of k steps, one per request, in order (R253). -/
def responsesOf : Nat → State → List Frame
  | 0, _ => []
  | k + 1, s =>
    match step s with
    | .next t =>
      match s.host with
      | .submit _ :: _ => t.rsp.toList ++ responsesOf k t
      | _ => responsesOf k t
    | _ => []

/-- The observation of the run of a program: its requests submitted in order with no reset in between (R253). -/
def observation (p : List Frame) (s : State) : List Frame :=
  responsesOf p.length { s with host := p.map .submit }

/-- One round of R100's inner loop on a number below 256. -/
def crcRoundNat (c : Nat) : Nat := if 128 ≤ c then ((c * 2) ^^^ 0x31) &&& 0xFF else (c * 2) &&& 0xFF

/-- R100's inner loop: the round, repeated. -/
def crcRoundsNat : Nat → Nat → Nat
  | 0, c => c
  | k + 1, c => crcRoundsNat k (crcRoundNat c)

/-- R100's pseudocode on numbers. -/
def crcNat (seed : Nat) (data : List Nat) : Nat := data.foldl (fun c d => crcRoundsNat 8 (c ^^^ d)) seed

/-- A byte sequence as one number, first byte most significant. -/
def bigEndian : Nat → List Byte → Nat
  | acc, [] => acc
  | acc, b :: bs => bigEndian (acc * 256 + b.toNat) bs

/-- The remainder of a polynomial over GF(2) of degree below k + 8 by x^8 + x^5 + x^4 + 1, that is 0x131: long division,
the highest term first (R100). -/
def polyRem : Nat → Nat → Nat
  | 0, m => m
  | k + 1, m => polyRem k (if m.testBit (k + 8) then m ^^^ (0x131 <<< k) else m)

/-- v is x rounded to the nearest integer, a tie away from zero (R150). -/
def RoundsTo (x : ℚ) (v : ℤ) : Prop := |x - v| ≤ 1 / 2 ∧ (|x - v| = 1 / 2 → |x| < |(v : ℚ)|)

/-- The part-1 reply (R180). -/
def partA (r : IdReply) : List Byte := [r.sna3, r.crcA3, r.sna2, r.crcA2, r.sna1, r.crcA1, r.sna0, r.crcA0]

/-- The part-2 reply (R180). -/
def partB (r : IdReply) : List Byte := [r.snb3, r.snb2, r.crcB2, r.snb1, r.snb0, r.crcB0]

/-- R181's term of check i: 2^i when the computed byte e differs from the received byte a. -/
def failBit (i : Nat) (e a : Byte) : Nat := if e = a then 0 else 2 ^ i

/-- R180's expected bytes and R181's mask, spelled out. -/
def maskOf (r : IdReply) : Nat :=
  failBit 0 (crc8 0 [r.sna3]) r.crcA3 + failBit 1 (crc8 r.crcA3 [r.sna2]) r.crcA2
    + failBit 2 (crc8 r.crcA2 [r.sna1]) r.crcA1 + failBit 3 (crc8 r.crcA1 [r.sna0]) r.crcA0
    + failBit 4 (crc8 0 [r.snb3, r.snb2]) r.crcB2 + failBit 5 (crc8 r.crcB2 [r.snb1, r.snb0]) r.crcB0

/-- P of R183: the expected and received bytes of the six checks. -/
def pairsOf (r : IdReply) : List Byte :=
  [crc8 0 [r.sna3], r.crcA3, crc8 r.crcA3 [r.sna2], r.crcA2, crc8 r.crcA2 [r.sna1], r.crcA1,
   crc8 r.crcA1 [r.sna0], r.crcA0, crc8 0 [r.snb3, r.snb2], r.crcB2, crc8 r.crcB2 [r.snb1, r.snb0], r.crcB0]

/-- The serial as R182's sum of shifted bytes. -/
def serialNat (r : IdReply) : Nat :=
  r.sna3.toNat * 2 ^ 56 + r.sna2.toNat * 2 ^ 48 + r.sna1.toNat * 2 ^ 40 + r.sna0.toNat * 2 ^ 32
    + r.snb3.toNat * 2 ^ 24 + r.snb2.toNat * 2 ^ 16 + r.snb1.toNat * 2 ^ 8 + r.snb0.toNat

/-- stype's code by the lookup of R182. -/
def typeCode (x : Nat) : Byte :=
  if x = 0x00 ∨ x = 0xFF then 0x01
  else if x = 0x0D then 0x02
  else if x = 0x14 then 0x03
  else if x = 0x15 then 0x04
  else 0x00

/-- SNCHK's response to a reply of the right counts (R183). -/
def snResponse (r : IdReply) : Frame :=
  if maskOf r ≠ 0 then [0x01, 0, 0, 0, 0, 0, 0, 0, 0, 0x00, BitVec.ofNat 8 (maskOf r)] ++ pairsOf r
  else
    [0x00] ++ (List.range 8).map (fun k => BitVec.ofNat 8 (serialNat r / 256 ^ (7 - k)))
      ++ [typeCode r.snb3.toNat, 0x00] ++ pairsOf r

/-- The checks under the other reading of C2: each seeded with the computed result of the one before (R186). -/
def passesComputed (r : IdReply) : Prop :=
  let c0 := crc8 0 [r.sna3]
  let c1 := crc8 c0 [r.sna2]
  let c2 := crc8 c1 [r.sna1]
  let c3 := crc8 c2 [r.sna0]
  let c4 := crc8 0 [r.snb3, r.snb2]
  let c5 := crc8 c4 [r.snb1, r.snb0]
  c0 = r.crcA3 ∧ c1 = r.crcA2 ∧ c2 = r.crcA1 ∧ c3 = r.crcA0 ∧ c4 = r.crcB2 ∧ c5 = r.crcB0

/-- R187's table: the mask after a corruption of byte k of part 1, followed by part 2. -/
def corruptionMask : List Byte :=
  [0x01, 0x03, 0x02, 0x06, 0x04, 0x0C, 0x08, 0x08, 0x10, 0x10, 0x30, 0x20, 0x20, 0x20]

end Sys2Proof.Safety
end

