-- ==== Sys2Proof/Certificates/Slice0/Obligations.lean ====
section
/-! DEFINITION. The statements for the provers, each from numbered rules of spec/. -/

open Sys2Proof Sys2Proof.Machine Sys2Proof.Safety

/-- R26, R241: reset leaves RSP_VALID 0 and RSP without a value. -/
def Obligations.ResetLeavesNoResponse : Prop :=
  State.reset.rspValid = false ∧ State.reset.rsp = none ∧ State.reset.readRspValid = false
    ∧ State.reset.readRsp = .error .rspUnwritten

/-- R27: RSP holds no value while RSP_VALID = 0, and reading it then is the fault RspUnwritten, for a read on its own and
for a step. What follows the fault is not stated here (log 16). -/
def Obligations.ReadingUnwrittenRspFaults : Prop :=
  (∀ s : State, Legal s = true → s.rspValid = false → s.rsp = none)
  ∧ ∀ s : State, s.rspValid = false →
      s.readRsp = .error .rspUnwritten
        ∧ ∀ rest, step { s with host := .readRsp :: rest } = .fault .rspUnwritten

/-- R21, R43: a host read of a written RSP answers it, a host read of RSP_VALID always answers, and neither has a side
effect: only the host's own list of actions moves on (log 1). -/
def Obligations.HostReadsHaveNoSideEffect : Prop :=
  ∀ (s : State) (rest : List HostAction),
    (∀ r, s.rspValid = true → s.rsp = some r →
      s.readRsp = .ok r ∧ step { s with host := .readRsp :: rest } = .next { s with host := rest })
    ∧ s.readRspValid = s.rspValid
    ∧ step { s with host := .readRspValid :: rest } = .next { s with host := rest }

/-- R240, R241: asserting reset discards a request that is executing, without a response, and leaves the state of R26. -/
def Obligations.ResetDiscardsTheRequestInFlight : Prop :=
  ∀ (s : State) (inFlight : Option Frame) (rest : List HostAction),
    step { s with host := .assertReset inFlight :: rest } = .next { rsp := none, rspValid := false, host := rest }

/-- R60, R69: when the submitted frame decodes to an operation, the step is exec of that operation; the only thing around
it is that the submission leaves the host's list of actions (log 1). -/
def Obligations.StepRunsTheDecodedOperation : Prop :=
  ∀ (s : State) (q : Frame) (i : Instr) (rest : List HostAction),
    s.host = .submit q :: rest → decode q = .ok i → step s = exec i { s with host := rest }

/-- R69, R71: the decoder accepts exactly the frames of R69's pseudocode, and every other frame gets [03] and has no other
effect; the illegal opcodes, operand values and lengths of R71 among them. -/
def Obligations.IllegalFramesGetIllegalRequest : Prop :=
  (∀ q, legalRequest q = true → ∃ i, decode q = .ok i)
  ∧ (∀ q, legalRequest q = false → (∃ why, decode q = .error why) ∧ Responds q [0x03])
  ∧ (∀ (op : Byte) (p : Frame), (op = 0x00 ∨ 0x0C ≤ op.toNat) → Responds (op :: p) [0x03])
  ∧ (∀ cur v : Byte, 3 < v.toNat → Responds [0x04, cur, v] [0x03])
  ∧ (∀ cur v : Byte, 1 < v.toNat → Responds [0x05, cur, v] [0x03])
  ∧ (∀ (op flags : Byte) (p : Frame), (op = 0x08 ∨ op = 0x09) → 1 < flags.toNat → Responds (op :: flags :: p) [0x03])

/-- R62 to R67, R70: a frame that decodes has the operation's opcode, its format's length, and its operands at the bytes
its format gives. -/
def Obligations.DecodedOperandsAreTheFieldsOfTheFrame : Prop :=
  ∀ (q : Frame) (i : Instr), decode q = .ok i → FieldsOf q i

/-- R61 to R67, R73: decoding the encoded frame of a well-formed operation gives the operation back, every operand at
every value. -/
def Obligations.DecodeEncodeRoundTrip : Prop := ∀ i : Instr, i.wf = true → decode (encode i) = .ok i

/-- R69, R70: a frame decodes to at most what it encodes: a decoded operation is well formed and encodes to the very
frame, so no byte of a legal request is ignored. -/
def Obligations.LegalFramesHaveOneMeaning : Prop :=
  ∀ (q : Frame) (i : Instr), decode q = .ok i → i.wf = true ∧ encode i = q

/-- R61 to R67: a frame of each family, written out from its format, decodes to its operation. -/
def Obligations.SampleFramesDecode : Prop :=
  decode [0x01, 0xAB, 0x02, 0x12, 0x34] = .ok (.crc8 0xAB [0x12, 0x34])
  ∧ decode [0x02, 0x5A, 0x01, 0x12, 0x21] = .ok (.crcchk 0x5A [0x12] 0x21)
  ∧ decode [0x04, 0x3A, 0x03] = .ok (.uregres 0x3A 0x03)
  ∧ decode [0x07, 0x1F] = .ok (.htrenc 0x1F)
  ∧ decode [0x09, 0x01, 0x03, 0x66, 0xE0, 0xCE] = .ok (.meast 0x01 [0x66, 0xE0, 0xCE])
  ∧ decode [0x0A, 0x02, 0x11, 0x22, 0x01, 0x33] = .ok (.snchk [0x11, 0x22] [0x33])

/-- R101: CRC8 answers OK and the CRC, from every state; a frame of another length is illegal. No data returns the seed,
zeros under seed 0 return 0, and the worked example. -/
def Obligations.Crc8AnswersTheCrc : Prop :=
  (∀ (seed : Byte) (data : List Byte),
    Completes (.crc8 seed data) [0x00, crc8 seed data]
      ∧ (data.length ≤ 255 → Responds ([0x01, seed] ++ counted data) [0x00, crc8 seed data]))
  ∧ (∀ q : Frame, q.head? = some 0x01 → (q.length < 3 ∨ q.length ≠ 3 + num q 2) → Responds q [0x03])
  ∧ (∀ seed : Byte, Responds [0x01, seed, 0x00] [0x00, seed])
  ∧ (∀ n : Nat, n ≤ 255 → Responds ([0x01, 0x00] ++ counted (List.replicate n 0)) [0x00, 0x00])
  ∧ Responds [0x01, 0x00, 0x01, 0x00] [0x00, 0x00]

/-- R102: CRCCHK answers the computed and the received byte, OK when they are equal and CHECKSUM_MISMATCH when not; a
frame of another length is illegal. No data compares the seed; the worked example. -/
def Obligations.CrcchkComparesTheReceivedByte : Prop :=
  (∀ (seed : Byte) (data : List Byte) (rcv : Byte),
    let r := [if crc8 seed data = rcv then 0x00 else 0x01, crc8 seed data, rcv]
    Completes (.crcchk seed data rcv) r
      ∧ (data.length ≤ 255 → Responds ([0x02, seed] ++ counted data ++ [rcv]) r))
  ∧ (∀ q : Frame, q.head? = some 0x02 → (q.length < 3 ∨ q.length ≠ 4 + num q 2) → Responds q [0x03])
  ∧ (∀ seed rcv : Byte, Responds [0x02, seed, 0x00, rcv] [if seed = rcv then 0x00 else 0x01, seed, rcv])
  ∧ Responds [0x02, 0x00, 0x01, 0x12, 0x00] [0x01, 0x21, 0x00]

/-- R120: UREGDEC answers bits 7 and 0 as the resolution code, bit 2 and bit 6; bits 5:3 and 1 are ignored; a frame of
another length is illegal; the worked example. -/
def Obligations.UregdecDecodesTheFields : Prop :=
  (∀ u : Byte,
    let r : Frame := [0x00, BitVec.ofNat 8 (u.toNat / 128 * 2 + u.toNat % 2), BitVec.ofNat 8 (u.toNat / 4 % 2),
      BitVec.ofNat 8 (u.toNat / 64 % 2)]
    Completes (.uregdec u) r ∧ Responds [0x03, u] r ∧ ∀ m : Byte, Responds [0x03, u ^^^ (m &&& 0x3A)] r)
  ∧ (∀ q : Frame, q.head? = some 0x03 → q.length ≠ 2 → Responds q [0x03])
  ∧ Responds [0x03, 0xFF] [0x00, 0x03, 0x01, 0x01]

/-- R122, R77: UREGRES answers the write-user-reg command byte and cur with bits 7 and 0 replaced by the code's bits;
setting the current code changes nothing; res above 3 and another length are illegal; the worked example. -/
def Obligations.UregresSetsTheResolution : Prop :=
  (∀ cur res : Byte, res.toNat ≤ 3 →
    let new := BitVec.ofNat 8 (res.toNat / 2 * 128 + cur.toNat % 128 / 2 * 2 + res.toNat % 2)
    Completes (.uregres cur res) [0x00, 0xE6, new] ∧ Responds [0x04, cur, res] [0x00, 0xE6, new])
  ∧ (∀ cur : Byte,
    Responds [0x04, cur, BitVec.ofNat 8 (cur.toNat / 128 * 2 + cur.toNat % 2)] [0x00, 0xE6, cur])
  ∧ (∀ q : Frame, q.head? = some 0x04 → (3 < num q 2 ∨ q.length ≠ 3) → Responds q [0x03])
  ∧ SensorCommand.writeUserReg.wire = [0xE6]
  ∧ Responds [0x04, 0x3A, 0x03] [0x00, 0xE6, 0xBB]

/-- R124, R77: UREGHTR answers the write-user-reg command byte and cur with bit 2 replaced by the enable; setting the
current enable changes nothing; en above 1 and another length are illegal; the worked example. -/
def Obligations.UreghtrSetsTheHeaterEnable : Prop :=
  (∀ cur en : Byte, en.toNat ≤ 1 →
    let new := BitVec.ofNat 8 (cur.toNat / 8 * 8 + en.toNat * 4 + cur.toNat % 4)
    Completes (.ureghtr cur en) [0x00, 0xE6, new] ∧ Responds [0x05, cur, en] [0x00, 0xE6, new])
  ∧ (∀ cur : Byte, Responds [0x05, cur, BitVec.ofNat 8 (cur.toNat / 4 % 2)] [0x00, 0xE6, cur])
  ∧ (∀ q : Frame, q.head? = some 0x05 → (1 < num q 2 ∨ q.length ≠ 3) → Responds q [0x03])
  ∧ Responds [0x05, 0xBB, 0x01] [0x00, 0xE6, 0xBF]

/-- R125: HTRDEC answers bits 3:0; bits 7:4 are ignored; a frame of another length is illegal; the worked example. -/
def Obligations.HtrdecDecodesTheLevel : Prop :=
  (∀ h : Byte,
    Completes (.htrdec h) [0x00, BitVec.ofNat 8 (h.toNat % 16)]
      ∧ Responds [0x06, h] [0x00, BitVec.ofNat 8 (h.toNat % 16)])
  ∧ (∀ q : Frame, q.head? = some 0x06 → q.length ≠ 2 → Responds q [0x03])
  ∧ Responds [0x06, 0xF5] [0x00, 0x05]

/-- R126, R77: HTRENC answers the write-heater-reg command byte and the level masked to bits 3:0, also above 15; a frame
of another length is illegal; the worked example. -/
def Obligations.HtrencEncodesTheMaskedLevel : Prop :=
  (∀ level : Byte,
    Completes (.htrenc level) [0x00, 0x51, BitVec.ofNat 8 (level.toNat % 16)]
      ∧ Responds [0x07, level] [0x00, 0x51, BitVec.ofNat 8 (level.toNat % 16)])
  ∧ (∀ q : Frame, q.head? = some 0x07 → q.length ≠ 2 → Responds q [0x03])
  ∧ SensorCommand.writeHeaterReg.wire = [0x51]
  ∧ Responds [0x07, 0x0F] [0x00, 0x51, 0x0F]

/-- R152, R153: MEASRH, every outcome in R153's order, with its corner cases and worked example. -/
def Obligations.MeasrhConvertsHumidity : Prop :=
  MeasuresBy 0x08 .measrh rhCenti
  ∧ Responds [0x08, 0x00, 0x02, 0x00, 0x00] [0x00, 0x00, 0x00, 0xFD, 0xA8, 0x00, 0x00]
  ∧ Responds [0x08, 0x00, 0x02, 0xFF, 0xFF] [0x00, 0xFF, 0xFF, 0x2E, 0x7C, 0x00, 0x00]
  ∧ Responds [0x08, 0x00, 0x02, 0x0C, 0x49] [0x00, 0x0C, 0x49, 0x00, 0x00, 0x00, 0x00]
  ∧ Responds [0x08, 0x01, 0x03, 0x80, 0x00, 0x23] [0x00, 0x80, 0x00, 0x16, 0x12, 0x23, 0x23]

/-- R152, R154: MEAST, every outcome in R153's order, with its corner cases and worked example. -/
def Obligations.MeastConvertsTemperature : Prop :=
  MeasuresBy 0x09 .meast tCenti
  ∧ Responds [0x09, 0x00, 0x02, 0x00, 0x00] [0x00, 0x00, 0x00, 0xED, 0xB3, 0x00, 0x00]
  ∧ Responds [0x09, 0x00, 0x02, 0xFF, 0xFF] [0x00, 0xFF, 0xFF, 0x32, 0x57, 0x00, 0x00]
  ∧ Responds [0x09, 0x00, 0x02, 0x44, 0x41] [0x00, 0x44, 0x41, 0x00, 0x00, 0x00, 0x00]
  ∧ Responds [0x09, 0x00, 0x02, 0x60, 0x00] [0x00, 0x60, 0x00, 0x07, 0x71, 0x00, 0x00]
  ∧ Responds [0x09, 0x00, 0x02, 0x66, 0xE0] [0x00, 0x66, 0xE0, 0x09, 0x48, 0x00, 0x00]

/-- R180 to R183: SNCHK on two replies of 8 and 6 bytes, on other counts, and on a frame whose length disagrees with its
counts; the all-zero reply and the worked example. -/
def Obligations.SnchkJudgesTheReplies : Prop :=
  (∀ r : IdReply,
    Completes (.snchk (partA r) (partB r)) (snResponse r)
      ∧ Responds ([0x0A] ++ counted (partA r) ++ counted (partB r)) (snResponse r))
  ∧ (∀ a b : List Byte, (a.length ≠ 8 ∨ b.length ≠ 6) →
    Completes (.snchk a b) (0x02 :: List.replicate 22 0)
      ∧ (a.length ≤ 255 → b.length ≤ 255 →
        Responds ([0x0A] ++ counted a ++ counted b) (0x02 :: List.replicate 22 0)))
  ∧ (∀ q : Frame, q.head? = some 0x0A →
    (q.length < 2 ∨ q.length < 3 + num q 1 ∨ q.length ≠ 3 + num q 1 + num q (2 + num q 1)) → Responds q [0x03])
  ∧ Responds ([0x0A] ++ counted (List.replicate 8 0) ++ counted (List.replicate 6 0))
      ([0x00] ++ List.replicate 8 0 ++ [0x01, 0x00] ++ List.replicate 12 0)
  ∧ Responds
      [0x0A, 0x08, 0x12, 0x21, 0x34, 0xB6, 0x56, 0xC1, 0x78, 0x37, 0x06, 0x15, 0xFF, 0xB5, 0xAB, 0xCD, 0x08]
      [0x00, 0x12, 0x34, 0x56, 0x78, 0x15, 0xFF, 0xAB, 0xCD, 0x04, 0x00, 0x21, 0x21, 0xB6, 0xB6, 0xC1, 0xC1, 0x37,
        0x37, 0xB5, 0xB5, 0x08, 0x08]

/-- R184: SNTYPE answers the type code of the byte; a frame of another length is illegal; the worked example. -/
def Obligations.SntypeDecodesTheSensorType : Prop :=
  (∀ x : Byte, Completes (.sntype x) [0x00, typeCode x.toNat] ∧ Responds [0x0B, x] [0x00, typeCode x.toNat])
  ∧ (∀ q : Frame, q.head? = some 0x0B → q.length ≠ 2 → Responds q [0x03])
  ∧ Responds [0x0B, 0x14] [0x00, 0x03]

/-- R100: crc8 is the pseudocode, evaluated in plain numbers below 256. -/
def Obligations.CrcFollowsThePseudocode : Prop :=
  ∀ (seed : Byte) (data : List Byte), (crc8 seed data).toNat = crcNat seed.toNat (data.map BitVec.toNat)

/-- R100: with the generator polynomial x^8 + x^5 + x^4 + 1, the CRC of a non-empty sequence is the remainder of the
sequence, its first byte XORed with the seed, times x^8: no final XOR and no reflection. R100 marks the polynomial as
derived. -/
def Obligations.CrcIsThePolynomialRemainder : Prop :=
  ∀ (seed d : Byte) (data : List Byte),
    (crc8 seed (d :: data)).toNat
      = polyRem (8 * (data.length + 1)) (bigEndian 0 ((d ^^^ seed) :: data) * 256)

/-- R104: chaining, for the function and for the block's CRC8 with the seed carried by the host. -/
def Obligations.CrcChains : Prop :=
  (∀ (s : Byte) (a b : List Byte), crc8 (crc8 s a) b = crc8 s (a ++ b))
  ∧ ∀ (s : Byte) (a b : List Byte), a.length + b.length ≤ 255 →
      ∃ c e : Byte, Responds ([0x01, s] ++ counted a) [0x00, c] ∧ Responds ([0x01, c] ++ counted b) [0x00, e]
        ∧ Responds ([0x01, s] ++ counted (a ++ b)) [0x00, e]

/-- R105: the structure of the one-byte CRC: the seed XORs into the byte, the map is a GF(2)-linear bijection, and for a
fixed seed or a fixed byte two others never give the same CRC. -/
def Obligations.OneByteCrcIsALinearBijection : Prop :=
  (∀ s b : Byte, crc8 s [b] = crc8 0 [s ^^^ b])
  ∧ Function.Bijective (fun x : Byte => crc8 0 [x])
  ∧ (∀ x y : Byte, crc8 0 [x ^^^ y] = crc8 0 [x] ^^^ crc8 0 [y])
  ∧ crc8 0 [0] = 0
  ∧ (∀ s x y : Byte, x ≠ y → crc8 s [x] ≠ crc8 s [y])
  ∧ (∀ b s t : Byte, s ≠ t → crc8 s [b] ≠ crc8 t [b])

/-- R123: the merge takes every bit of the mask from the new field and every other bit from cur. -/
def Obligations.MergeTouchesOnlyTheOwnedBits : Prop :=
  (∀ (cur m f : Byte) (k : Nat), (merge cur m f).getLsbD k = if m.getLsbD k then f.getLsbD k else cur.getLsbD k)
  ∧ (∀ cur res : Byte, withResolution cur res &&& 0x7E = cur &&& 0x7E)
  ∧ (∀ cur en : Byte, withHeater cur en &&& 0xFB = cur &&& 0xFB)

/-- R127: the register round trips, through the block. -/
def Obligations.RegisterRoundTrips : Prop :=
  (∀ cur res : Byte, res.toNat ≤ 3 → ∃ new, Responds [0x04, cur, res] [0x00, 0xE6, new]
    ∧ Responds [0x03, new] [0x00, res, BitVec.ofNat 8 (cur.toNat / 4 % 2), BitVec.ofNat 8 (cur.toNat / 64 % 2)])
  ∧ (∀ cur en : Byte, en.toNat ≤ 1 → ∃ new res v w, Responds [0x05, cur, en] [0x00, 0xE6, new]
    ∧ Responds [0x03, new] [0x00, res, en, v] ∧ Responds [0x03, cur] [0x00, res, w, v])
  ∧ (∀ level : Byte, level.toNat ≤ 15 → ∃ h, Responds [0x07, level] [0x00, 0x51, h] ∧ Responds [0x06, h] [0x00, level])
  ∧ (∀ h : Byte, ∃ level, Responds [0x06, h] [0x00, level] ∧ Responds [0x07, level] [0x00, 0x51, h &&& 0x0F])

/-- R150: rha is rounding to the nearest integer with ties away from zero; the value is unique. -/
def Obligations.RhaRoundsHalfAwayFromZero : Prop :=
  ∀ (n : ℤ) (v : ℤ), RoundsTo ((n : ℚ) / 65536) v ↔ rha n 65536 = v

/-- R151: the two conversions are the source's formulas in exact arithmetic, in hundredths, rounded once; their ranges and
end points; non-decreasing; every intermediate below 2^31 in magnitude. -/
def Obligations.ConversionsAreExact : Prop :=
  (∀ raw : Half, RoundsTo (((raw.toNat : ℚ) * 125 / 65536 - 6) * 100) (rhCenti raw)
    ∧ RoundsTo (((raw.toNat : ℚ) * 17572 / 100 / 65536 - 4685 / 100) * 100) (tCenti raw))
  ∧ (∀ raw : Half, -600 ≤ rhCenti raw ∧ rhCenti raw ≤ 11900 ∧ -4685 ≤ tCenti raw ∧ tCenti raw ≤ 12887)
  ∧ rhCenti 0 = -600 ∧ rhCenti 65535 = 11900 ∧ tCenti 0 = -4685 ∧ tCenti 65535 = 12887
  ∧ (∀ x y : Half, x.toNat ≤ y.toNat → rhCenti x ≤ rhCenti y ∧ tCenti x ≤ tCenti y)
  ∧ (∀ raw : Half, raw.toNat * 17572 ≤ 1151581020 ∧ |(raw.toNat : ℤ) * 17572 - 307036160| + 32768 < 2 ^ 31
    ∧ |(raw.toNat : ℤ) * 12500 - 39321600| + 32768 < 2 ^ 31)

/-- R155, humidity: every value from -600 to 11900 is taken, by 5 or 6 consecutive raw codes, the end bins by 3 and 2. -/
def Obligations.HumidityQuantization : Prop :=
  (∀ v : ℤ, -600 < v → v < 11900 → ∃ lo n : Nat, (n = 5 ∨ n = 6) ∧ lo + n ≤ 65536
    ∧ ∀ raw : Half, rhCenti raw = v ↔ lo ≤ raw.toNat ∧ raw.toNat < lo + n)
  ∧ (∀ raw : Half, rhCenti raw = -600 ↔ raw.toNat < 3)
  ∧ (∀ raw : Half, rhCenti raw = 11900 ↔ 65534 ≤ raw.toNat)

/-- R155, temperature: every value from -4685 to 12887 is taken, by 3 or 4 consecutive raw codes, the end bins by 2 and
1. -/
def Obligations.TemperatureQuantization : Prop :=
  (∀ v : ℤ, -4685 < v → v < 12887 → ∃ lo n : Nat, (n = 3 ∨ n = 4) ∧ lo + n ≤ 65536
    ∧ ∀ raw : Half, tCenti raw = v ↔ lo ≤ raw.toNat ∧ raw.toNat < lo + n)
  ∧ (∀ raw : Half, tCenti raw = -4685 ↔ raw.toNat < 2)
  ∧ (∀ raw : Half, tCenti raw = 12887 ↔ raw.toNat = 65535)

/-- R185: when SNCHK answers OK, each CRC byte of the reply is the CRC of its whole group up to and including its own
data. -/
def Obligations.PassingCrcsAreCumulative : Prop :=
  ∀ (r : IdReply) (body : Frame),
    Responds ([0x0A] ++ counted (partA r) ++ counted (partB r)) (0x00 :: body) →
      r.crcA3 = crc8 0 [r.sna3]
      ∧ r.crcA2 = crc8 0 [r.sna3, r.sna2]
      ∧ r.crcA1 = crc8 0 [r.sna3, r.sna2, r.sna1]
      ∧ r.crcA0 = crc8 0 [r.sna3, r.sna2, r.sna1, r.sna0]
      ∧ r.crcB2 = crc8 0 [r.snb3, r.snb2]
      ∧ r.crcB0 = crc8 0 [r.snb3, r.snb2, r.snb1, r.snb0]

/-- R186: SNCHK answers OK exactly when every check passes under the other reading, each seeded with the computed result
of the one before. -/
def Obligations.VerdictIsTheSameUnderBothSeedings : Prop :=
  ∀ r : IdReply,
    (∃ body, Responds ([0x0A] ++ counted (partA r) ++ counted (partB r)) (0x00 :: body)) ↔ passesComputed r

/-- R187: replace any one of the 14 bytes of a reply that passes by any other value: SNCHK then answers
CHECKSUM_MISMATCH with the mask of R187's table for that byte. -/
def Obligations.SingleByteCorruptionIsLocated : Prop :=
  ∀ (r : IdReply) (ok : Frame) (k : Nat) (v : Byte),
    Responds ([0x0A] ++ counted (partA r) ++ counted (partB r)) (0x00 :: ok) →
    k < 14 → (partA r ++ partB r).getD k 0 ≠ v →
      ∃ rest : Frame,
        Responds
          ([0x0A] ++ counted (((partA r ++ partB r).set k v).take 8) ++ counted (((partA r ++ partB r).set k v).drop 8))
          ([0x01] ++ List.replicate 8 0 ++ [0x00, corruptionMask.getD k 0] ++ rest)

/-- R25, R43, R68, R210: every request frame, legal or not, gets in one step a response of R68's layouts that depends on
the frame alone, whatever came before it. -/
def Obligations.EveryRequestIsAnsweredByItsFrameAlone : Prop :=
  ∀ q : Frame, ∃ r : Frame, legalResponse r = true ∧ Responds q r

/-- R68, R211: a well-formed operation answers with a status it can produce and a response of the length the table gives
for the two; ILLEGAL_REQUEST comes from the decoder alone. -/
def Obligations.StatusesAndLengthsFollowTheTable : Prop :=
  ∀ i : Instr, i.wf = true → ∃ (st : Status) (body : Frame),
    st ≠ .illegalRequest ∧ Completes i (st.code :: body) ∧ responseLength i.opcode st = some (body.length + 1)

/-- R9, R10, R20 to R25: whatever its operands, an operation completes from every state, writes RSP and RSP_VALID and
nothing else, and what it writes does not depend on the state. -/
def Obligations.OperationsWriteOnlyTheResponse : Prop := ∀ i : Instr, ∃ r : Frame, Completes i r

/-- R21, R26, R27, R68: the invariant that RSP holds a response of R68's layouts exactly while RSP_VALID is 1 is kept by
every step. -/
def Obligations.StepKeepsTheResponseLegal : Prop :=
  ∀ s t : State, Legal s = true → step s = .next t → Legal t = true

/-- R26: the invariant holds at reset. -/
def Obligations.ResetIsLegal : Prop := Legal State.reset = true

/-- R253: the observation of a program's run, from any state, is one response per request, in order, each that of its
request alone. -/
def Obligations.ObservationIsOneResponsePerRequest : Prop :=
  ∃ f : Frame → Frame, (∀ q, Responds q (f q)) ∧ ∀ (p : List Frame) (s : State), observation p s = p.map f

/-- R44: the response stays in RSP until the next request completes or reset is asserted; a step with neither keeps RSP
and RSP_VALID (a step in which the host does nothing keeps the whole state, log 4). -/
def Obligations.ResponseStaysUntilTheNextRequest : Prop :=
  (∀ s t : State, (∀ q rest, s.host ≠ .submit q :: rest) → (∀ q rest, s.host ≠ .assertReset q :: rest) →
    step s = .next t → t.rsp = s.rsp ∧ t.rspValid = s.rspValid)
  ∧ ∀ s : State, s.host = [] → step s = .next s

/-- R27, R213: the machine stops only with the fault RspUnwritten, only on a host read of RSP that holds no value, and
never refuses. That the fault ends the run, and the fault where RSP_VALID is 1 without a value, are the model's choices
(logs 16 and 6). -/
def Obligations.OnlyAnUnwrittenReadStopsTheMachine : Prop :=
  (∀ (s : State) (f : Fault), step s = .fault f →
    f = .rspUnwritten ∧ (∃ rest, s.host = .readRsp :: rest) ∧ (s.rspValid = false ∨ s.rsp = none))
  ∧ ∀ (s : State) (r : Refusal), step s ≠ .refused r

/-- R73, R74: what the assembler accepts, cvtrh and cvtt among it, is a legal request for the very operation of the
statement. It is so for every list because the model rejects a list of more than 255 numbers, a DESIGN CHOICE where R73
says that any list length is accepted (log 12). The rows of R73's table are pinned by AssemblerFollowsTheTable. -/
def Obligations.AssembledStatementsDecode : Prop :=
  ∀ (st : AsmStmt) (q : Frame), st.assemble = .ok q → ∃ i, st.toInstr = .ok i ∧ i.wf = true ∧ decode q = .ok i

/-- R73, R74: the rows of the assembler's table, row by row, for operands that fit a byte and lists whose count fits one
(the bound on the lists is the model's choice, log 12); the pseudo-instructions cvtrh and cvtt for every 16-bit value; the
names of the resolution codes (the spec's presumption, log 8) and of the enable values; and the rejection of a number
above 255, alone or in a list, and of a UREGRES or UREGHTR value outside its range. -/
def Obligations.AssemblerFollowsTheTable : Prop :=
  (∀ (x y : Byte) (d : List Byte), d.length ≤ 255 →
    let ns := d.map BitVec.toNat
    (AsmStmt.crc8 x.toNat ns).assemble = .ok ([0x01, x] ++ counted d)
      ∧ (AsmStmt.crcchk x.toNat ns y.toNat).assemble = .ok ([0x02, x] ++ counted d ++ [y])
      ∧ (AsmStmt.measrh false ns).assemble = .ok ([0x08, 0x00] ++ counted d)
      ∧ (AsmStmt.measrh true ns).assemble = .ok ([0x08, 0x01] ++ counted d)
      ∧ (AsmStmt.meast false ns).assemble = .ok ([0x09, 0x00] ++ counted d)
      ∧ (AsmStmt.meast true ns).assemble = .ok ([0x09, 0x01] ++ counted d)
      ∧ ∀ e : List Byte, e.length ≤ 255 →
          (AsmStmt.snchk ns (e.map BitVec.toNat)).assemble = .ok ([0x0A] ++ counted d ++ counted e))
  ∧ (∀ x : Byte,
    (AsmStmt.uregdec x.toNat).assemble = .ok [0x03, x]
      ∧ (AsmStmt.htrdec x.toNat).assemble = .ok [0x06, x]
      ∧ (AsmStmt.htrenc x.toNat).assemble = .ok [0x07, x]
      ∧ (AsmStmt.sntype x.toNat).assemble = .ok [0x0B, x])
  ∧ (∀ cur v : Byte,
    (v.toNat ≤ 3 → (AsmStmt.uregres cur.toNat v.toNat).assemble = .ok [0x04, cur, v])
      ∧ (v.toNat ≤ 1 → (AsmStmt.ureghtr cur.toNat v.toNat).assemble = .ok [0x05, cur, v]))
  ∧ (∀ hi lo : Byte,
    (AsmStmt.cvtrh (hi.toNat * 256 + lo.toNat)).assemble = .ok [0x08, 0x00, 0x02, hi, lo]
      ∧ (AsmStmt.cvtt (hi.toNat * 256 + lo.toNat)).assemble = .ok [0x09, 0x00, 0x02, hi, lo])
  ∧ (["rh12_t14", "rh8_t12", "rh10_t13", "rh11_t11"].map (fun w => resolutionName w.toList)
      = [some 0, some 1, some 2, some 3]
    ∧ ["off", "on"].map (fun w => enableName w.toList) = [some 0, some 1])
  ∧ (∀ n : Nat, 255 < n →
    (AsmStmt.uregdec n).assemble = .error .byteRange ∧ (AsmStmt.htrdec n).assemble = .error .byteRange
      ∧ (AsmStmt.htrenc n).assemble = .error .byteRange ∧ (AsmStmt.sntype n).assemble = .error .byteRange
      ∧ ∀ v : Nat, (∃ why, (AsmStmt.uregres n v).assemble = .error why)
          ∧ (∃ why, (AsmStmt.ureghtr n v).assemble = .error why))
  ∧ (∀ (d : List Nat) (x : Nat), (255 < x ∨ ∃ n ∈ d, 255 < n) →
    (∃ why, (AsmStmt.crc8 x d).assemble = .error why)
      ∧ ∀ y : Nat, ∃ why, (AsmStmt.crcchk x d y).assemble = .error why)
  ∧ (∀ (d e : List Nat) (x y : Nat) (crc : Bool),
    (255 < y → ∃ why, (AsmStmt.crcchk x d y).assemble = .error why)
      ∧ ((∃ n ∈ d, 255 < n) →
        (∃ why, (AsmStmt.measrh crc d).assemble = .error why) ∧ (∃ why, (AsmStmt.meast crc d).assemble = .error why)
          ∧ (∃ why, (AsmStmt.snchk d e).assemble = .error why) ∧ ∃ why, (AsmStmt.snchk e d).assemble = .error why))
  ∧ (∀ cur v : Nat,
    (3 < v → ∃ why, (AsmStmt.uregres cur v).assemble = .error why)
      ∧ (1 < v → ∃ why, (AsmStmt.ureghtr cur v).assemble = .error why))

/-- R74: crcchain submits one CRC8 a byte; the responses are the CRCs of the growing prefixes, the last one that of the
whole list. -/
def Obligations.CrcchainComputesTheWholeCrc : Prop :=
  ∀ (seed : Byte) (d : List Byte) (s t : State),
    observation (crcchainRequests seed d s) t
      = (List.range d.length).map (fun k => [0x00, crc8 seed (d.take (k + 1))])

/-- R249, R251: the host's read-modify-write through the block transmits the write-user-reg byte and the new register
byte, made from the cached byte where there is one and from the byte read where there is none, and caches it; the heater
level goes out without a cache. The bits of a resolution code are the spec's presumption (K3, log 8), so is the level's
position in bits 3:0 (K6, log 9), and that the host's side is modelled by these functions is log 14. -/
def Obligations.RegisterChangeTransmitsTheMergedByte : Prop :=
  (∀ (cache : HostCache) (bus res : Byte) (s : State), res.toNat ≤ 3 →
    let cur := match cache with | .cached b => b | .fresh => bus
    let new := BitVec.ofNat 8 (res.toNat / 2 * 128 + cur.toNat % 128 / 2 * 2 + res.toNat % 2)
    changeRegister (.resolution res) cache bus s
      = some ([0xE6, new], .cached new, answered s [0x00, 0xE6, new]))
  ∧ (∀ (cache : HostCache) (bus en : Byte) (s : State), en.toNat ≤ 1 →
    let cur := match cache with | .cached b => b | .fresh => bus
    let new := BitVec.ofNat 8 (cur.toNat / 8 * 8 + en.toNat * 4 + cur.toNat % 4)
    changeRegister (.heater en) cache bus s = some ([0xE6, new], .cached new, answered s [0x00, 0xE6, new]))
  ∧ (∀ (level : Byte) (s : State),
    let h := BitVec.ofNat 8 (level.toNat % 16)
    writeHeaterLevel level s = some ([0x51, h], answered s [0x00, 0x51, h]))
end

