-- ==== Sys2Proof/Laws/Decode.lean ====
section
/-! SUPPORT. What the decoder's parts answer: the opcode map read both ways, each opcode byte's format, and the inversion
of each format. -/

namespace Sys2Proof

/-- The opcode map read backwards gives the opcode. -/
@[simp] theorem Opcode.ofByte_code (o : Opcode) : Opcode.ofByte o.code = some o := by cases o <;> decide

/-- A byte that stands for an opcode is its code (R61, R71). -/
theorem Opcode.code_of_ofByte {b : Byte} {o : Opcode} (h : Opcode.ofByte b = some o) : o.code = b := by
  have := List.find?_some h
  simpa using this

/-- Decoding a frame whose first byte is an opcode is decoding its operands. -/
@[simp] theorem decode_code_cons (o : Opcode) (p : Frame) : decode (o.code :: p) = decodeOperands p o := by
  simp [decode]

/-- The length a reader without frame boundaries takes is that of the opcode's format. -/
@[simp] theorem streamLength_code_cons (o : Opcode) (p : Frame) :
    streamLength (o.code :: p) = formatLength (o.code :: p) o := by
  simp [streamLength]

/-- A frame that decodes starts with an opcode, and its rest decodes as that opcode's operands. -/
theorem decode_ok {q : Frame} {i : Instr} (h : decode q = .ok i) :
    ∃ o p, q = o.code :: p ∧ decodeOperands p o = .ok i := by
  cases q with
  | nil => simp [decode] at h
  | cons b p =>
    simp only [decode] at h
    split at h
    · cases h
    · rename_i o ho
      exact ⟨o, p, by rw [Opcode.code_of_ofByte ho], h⟩

/-- A passed check. -/
theorem need_ok {c : Bool} {why : Illegal} {k : Except Illegal Instr} {i : Instr} :
    need c why k = .ok i ↔ c = true ∧ k = .ok i := by
  unfold need; cases c <;> simp

/-- Format F-CRC, inverted (R62). -/
theorem decodeCrc_ok {p : Frame} {i : Instr} :
    decodeCrc p = .ok i ↔ ∃ seed n d, p = seed :: n :: d ∧ d.length = n.toNat ∧ i = .crc8 seed d := by
  unfold decodeCrc
  split
  · simp only [need_ok, beq_iff_eq, Except.ok.injEq, List.cons.injEq]
    constructor
    · rintro ⟨h, rfl⟩; exact ⟨_, _, _, ⟨rfl, rfl, rfl⟩, h, rfl⟩
    · rintro ⟨_, _, _, ⟨rfl, rfl, rfl⟩, h, rfl⟩; exact ⟨h, rfl⟩
  · rename_i h
    simp only [reduceCtorEq, false_iff]
    rintro ⟨a, b, c, rfl, -⟩
    exact h a b c rfl

/-- Format F-CHK, inverted (R63). -/
theorem decodeChk_ok {p : Frame} {i : Instr} :
    decodeChk p = .ok i ↔
      ∃ seed n d rcv, p = seed :: n :: (d ++ [rcv]) ∧ d.length = n.toNat ∧ i = .crcchk seed d rcv := by
  constructor
  · intro h
    unfold decodeChk at h
    split at h
    · rename_i seed n d
      split at h
      · rename_i rcv hd
        have hl : d.length = n.toNat + 1 := by
          have := congrArg List.length hd
          simp at this
          omega
        refine ⟨seed, n, d.take n.toNat, rcv, ?_, ?_, ?_⟩
        · rw [← hd, List.take_append_drop]
        · simp; omega
        · simpa [eq_comm] using h
      · cases h
    · cases h
  · rintro ⟨seed, n, d, rcv, rfl, hd, rfl⟩
    simp [decodeChk, ← hd]

/-- Format F-B1, inverted (R64). -/
theorem decodeB1_ok {mk : Byte → Instr} {p : Frame} {i : Instr} :
    decodeB1 mk p = .ok i ↔ ∃ x, p = [x] ∧ i = mk x := by
  unfold decodeB1
  split <;> simp_all [eq_comm]

/-- Format F-B2, inverted (R65). -/
theorem decodeB2_ok {mk : Byte → Byte → Instr} {top : Byte} {p : Frame} {i : Instr} :
    decodeB2 mk top p = .ok i ↔ ∃ cur v, p = [cur, v] ∧ v ≤ top ∧ i = mk cur v := by
  unfold decodeB2
  split
  · simp only [need_ok, decide_eq_true_eq, Except.ok.injEq, List.cons.injEq, and_true]
    constructor
    · rintro ⟨h, rfl⟩; exact ⟨_, _, ⟨rfl, rfl⟩, h, rfl⟩
    · rintro ⟨_, _, ⟨rfl, rfl⟩, h, rfl⟩; exact ⟨h, rfl⟩
  · rename_i h
    simp only [reduceCtorEq, false_iff]
    rintro ⟨a, b, rfl, -⟩
    exact h a b rfl

/-- Format F-MEAS, inverted (R66). -/
theorem decodeMeas_ok {mk : Byte → List Byte → Instr} {p : Frame} {i : Instr} :
    decodeMeas mk p = .ok i ↔
      ∃ flags n b, p = flags :: n :: b ∧ b.length = n.toNat ∧ flags ≤ 1 ∧ i = mk flags b := by
  unfold decodeMeas
  split
  · simp only [need_ok, decide_eq_true_eq, beq_iff_eq, Except.ok.injEq, List.cons.injEq]
    constructor
    · rintro ⟨h, h', rfl⟩; exact ⟨_, _, _, ⟨rfl, rfl, rfl⟩, h, h', rfl⟩
    · rintro ⟨_, _, _, ⟨rfl, rfl, rfl⟩, h, h', rfl⟩; exact ⟨h, h', rfl⟩
  · rename_i h
    simp only [reduceCtorEq, false_iff]
    rintro ⟨a, b, c, rfl, -⟩
    exact h a b c rfl

/-- Format F-SN, inverted (R67). -/
theorem decodeSn_ok {p : Frame} {i : Instr} :
    decodeSn p = .ok i ↔
      ∃ nA a nB b, p = nA :: (a ++ nB :: b) ∧ a.length = nA.toNat ∧ b.length = nB.toNat ∧ i = .snchk a b := by
  constructor
  · intro h
    unfold decodeSn at h
    split at h
    · rename_i nA p
      split at h
      · rename_i nB b hb
        rw [need_ok] at h
        have hl := congrArg List.length hb
        simp at hl
        refine ⟨nA, p.take nA.toNat, nB, b, ?_, ?_, by simpa using h.1, by simpa [eq_comm] using h.2⟩
        · rw [← hb, List.take_append_drop]
        · simp; omega
      · cases h
    · cases h
  · rintro ⟨nA, a, nB, b, rfl, ha, hb, rfl⟩
    simp [decodeSn, ← ha, need_ok, hb]

/-- The count byte of a list that fits reads back as its length. -/
theorem countByte_toNat {l : List Byte} (h : countFits l = true) : (countByte l).toNat = l.length := by
  simp [countFits] at h
  simp [countByte, BitVec.toNat_ofNat]
  omega

end Sys2Proof
end

