-- ==== Sys2Proof/Laws/State.lean ====
section
/-! SUPPORT. What each operation over the state does to each field, so that no proof unfolds a record update. -/

namespace Sys2Proof.Machine

@[simp] theorem State.withHost_rsp (s : State) (h : List HostAction) : (s.withHost h).rsp = s.rsp := rfl
@[simp] theorem State.withHost_rspValid (s : State) (h : List HostAction) : (s.withHost h).rspValid = s.rspValid := rfl
@[simp] theorem State.withHost_host (s : State) (h : List HostAction) : (s.withHost h).host = h := rfl

@[simp] theorem State.writeRsp_rsp (s : State) (r : Frame) : (s.writeRsp r).rsp = some r := rfl
@[simp] theorem State.writeRsp_rspValid (s : State) (r : Frame) : (s.writeRsp r).rspValid = true := rfl
@[simp] theorem State.writeRsp_host (s : State) (r : Frame) : (s.writeRsp r).host = s.host := rfl

@[simp] theorem State.clear_rsp (s : State) : s.clear.rsp = none := rfl
@[simp] theorem State.clear_rspValid (s : State) : s.clear.rspValid = false := rfl
@[simp] theorem State.clear_host (s : State) : s.clear.host = s.host := rfl

/-- respond is one write of RSP. -/
theorem State.respond_eq (s : State) (st : Status) (body : List Byte) :
    s.respond st body = s.writeRsp (st.code :: body) := rfl

/-- raise is one write of RSP: an error changes nothing else (R213). -/
theorem State.raise_eq (s : State) (e : ErrorReport) : s.raise e = s.writeRsp (e.status.code :: e.body) := rfl

/-- Two writes of RSP leave the last one. -/
@[simp] theorem State.writeRsp_writeRsp (s : State) (q r : Frame) : (s.writeRsp q).writeRsp r = s.writeRsp r := rfl

/-- What a host read of RSP answers, in full (R21, R27). -/
theorem State.readRsp_cases (s : State) :
    (∃ r, s.rspValid = true ∧ s.rsp = some r ∧ s.readRsp = .ok r) ∨
      ((s.rspValid = false ∨ s.rsp = none) ∧ s.readRsp = .error .rspUnwritten) := by
  unfold State.readRsp
  cases s.rspValid <;> cases s.rsp <;> simp

/-- A host read just after a write answers what was written. -/
@[simp] theorem State.readRsp_writeRsp (s : State) (r : Frame) : (s.writeRsp r).readRsp = .ok r := rfl

/-- A host read just after a reset is the fault. -/
@[simp] theorem State.readRsp_clear (s : State) : s.clear.readRsp = .error .rspUnwritten := rfl

end Sys2Proof.Machine
end

