-- ==== Sys2Proof/Laws/Exec.lean ====
section
/-! SUPPORT. Everything the shared operations of the units and of the port can do, said once. -/

namespace Sys2Proof.Machine

@[simp] theorem crc8_nil (seed : Byte) : crc8 seed [] = seed := rfl
theorem crc8_cons (seed d : Byte) (ds : List Byte) : crc8 seed (d :: ds) = crc8 (crcByte seed d) ds := rfl

/-- What measure_check finds, case by case (R152). -/
theorem measureCheck_cases (e : Bool) (b : List Byte) :
    (b.length ≠ (if e then 3 else 2) ∧ measureCheck e b = .malformed) ∨
      (∃ hi lo, e = false ∧ b = [hi, lo] ∧ measureCheck e b = .good hi lo (0, 0)) ∨
      (∃ hi lo act, e = true ∧ b = [hi, lo, act] ∧ crc8 0 [hi, lo] ≠ act ∧
        measureCheck e b = .mismatch (crc8 0 [hi, lo], act)) ∨
      (∃ hi lo, e = true ∧ b = [hi, lo, crc8 0 [hi, lo]] ∧
        measureCheck e b = .good hi lo (crc8 0 [hi, lo], crc8 0 [hi, lo])) := by
  cases e with
  | false =>
    match b with
    | [hi, lo] => exact .inr (.inl ⟨hi, lo, rfl, rfl, rfl⟩)
    | [] | [_] | _ :: _ :: _ :: _ => exact .inl ⟨by simp, rfl⟩
  | true =>
    match b with
    | [hi, lo, act] =>
      by_cases h : crc8 0 [hi, lo] = act
      · subst h
        exact .inr (.inr (.inr ⟨hi, lo, rfl, rfl, by simp [measureCheck, crcDiffers, crcSeedStart]⟩))
      · exact .inr (.inr (.inl ⟨hi, lo, act, rfl, rfl, h, by simpa [measureCheck, crcDiffers, crcSeedStart] using h⟩))
    | [] | [_] | [_, _] | _ :: _ :: _ :: _ :: _ => exact .inl ⟨by simp, rfl⟩

/-- A pair of replies is read exactly when the counts are 8 and 6 (R183). -/
theorem readReply_isSome (a b : List Byte) : (readReply a b).isSome ↔ a.length = 8 ∧ b.length = 6 := by
  unfold readReply
  split
  · simp
  · rename_i h
    simp only [Option.isSome_none, Bool.false_eq_true, false_iff]
    rintro ⟨ha, hb⟩
    match a, ha, b, hb with
    | [_, _, _, _, _, _, _, _], _, [_, _, _, _, _, _], _ => exact h _ _ _ _ _ _ _ _ _ _ _ _ _ _ rfl rfl

/-- What MEASRH and MEAST share, case by case: every outcome is one write of RSP (R153). -/
theorem convertReply_cases (conv : Half → Int) (flags : Byte) (b : List Byte) (s : State) :
    (measureCheck (expectCrc flags) b = .malformed ∧
        convertReply conv flags b s = s.writeRsp (0x02 :: List.replicate 6 0)) ∨
      (∃ e a, measureCheck (expectCrc flags) b = .mismatch (e, a) ∧
        convertReply conv flags b s = s.writeRsp [0x01, 0, 0, 0, 0, e, a]) ∨
      (∃ hi lo e a, measureCheck (expectCrc flags) b = .good hi lo (e, a) ∧
        convertReply conv flags b s
          = s.writeRsp (0x00 :: ([hi, lo] ++ halfBytes (s16 (conv (be16 hi lo))) ++ [e, a]))) := by
  unfold convertReply
  cases measureCheck (expectCrc flags) b with
  | malformed => exact .inl ⟨rfl, rfl⟩
  | mismatch p => exact .inr (.inl ⟨p.1, p.2, rfl, rfl⟩)
  | good hi lo p => exact .inr (.inr ⟨hi, lo, p.1, p.2, rfl, rfl⟩)

/-- What SNCHK does with a reply of the right counts, case by case (R183). -/
theorem judgeReply_cases (r : IdReply) (s : State) :
    (mismatchMask 0 (chainPairs r) ≠ 0 ∧
        judgeReply r s = s.writeRsp (0x01 :: (List.replicate 8 0 ++ [0, mismatchMask 0 (chainPairs r)]
          ++ pairBytes (chainPairs r)))) ∨
      (mismatchMask 0 (chainPairs r) = 0 ∧
        judgeReply r s = s.writeRsp (0x00 :: (serialBytes (serialOf r) ++ [(sensorType r.snb3).code, 0]
          ++ pairBytes (chainPairs r)))) := by
  unfold judgeReply
  by_cases h : mismatchMask 0 (chainPairs r) = 0
  · exact .inr ⟨h, by rw [if_neg (by simpa using h)]; rfl⟩
  · exact .inl ⟨h, by rw [if_pos (by simpa using h)]; rfl⟩

/-- serve, inverted: the decoded operation's meaning, or the response to an illegal request (R69). -/
theorem serve_cases (q : Frame) (s : State) :
    (∃ i, decode q = .ok i ∧ serve q s = exec i s) ∨
      (∃ why, decode q = .error why ∧ serve q s = .next (s.writeRsp [0x03])) := by
  unfold serve
  cases h : decode q with
  | ok i => exact .inl ⟨i, rfl, rfl⟩
  | error why => exact .inr ⟨why, rfl, rfl⟩

/-- A step with nothing from the host. -/
@[simp] theorem step_idle {s : State} (h : s.host = []) : step s = .next s := by
  simp [step, advance, h]

/-- A step with an action from the host. -/
theorem step_act {s : State} {a : HostAction} {rest : List HostAction} (h : s.host = a :: rest) :
    step s = hostAct a (s.withHost rest) := by
  simp [step, advance, h]

/-- What a step can do, said once: nothing, a request served, a reset, a read that succeeds, or the one fault. -/
theorem step_cases (s : State) :
    (s.host = [] ∧ step s = .next s) ∨
      (∃ q rest, s.host = .submit q :: rest ∧ step s = serve q (s.withHost rest)) ∨
      (∃ q rest, s.host = .assertReset q :: rest ∧ step s = .next (s.withHost rest).clear) ∨
      (∃ rest r, s.host = .readRsp :: rest ∧ s.readRsp = .ok r ∧ step s = .next (s.withHost rest)) ∨
      (∃ rest, s.host = .readRsp :: rest ∧ s.readRsp = .error .rspUnwritten ∧ step s = .fault .rspUnwritten) ∨
      (∃ rest, s.host = .readRspValid :: rest ∧ step s = .next (s.withHost rest)) := by
  cases h : s.host with
  | nil => exact .inl ⟨rfl, step_idle h⟩
  | cons a rest =>
    right
    rw [step_act h]
    cases a with
    | submit q => exact .inl ⟨q, rest, rfl, rfl⟩
    | assertReset q => exact .inr (.inl ⟨q, rest, rfl, rfl⟩)
    | readRspValid => exact .inr (.inr (.inr (.inr ⟨rest, rfl, rfl⟩)))
    | readRsp =>
      have hr : (s.withHost rest).readRsp = s.readRsp := rfl
      rcases s.readRsp_cases with ⟨r, -, -, ho⟩ | ⟨-, he⟩
      · exact .inr (.inr (.inl ⟨rest, r, rfl, ho, by simp [hostAct, hostReadRsp, hr, ho]⟩))
      · exact .inr (.inr (.inr (.inl ⟨rest, rfl, he, by simp [hostAct, hostReadRsp, hr, he]⟩)))

end Sys2Proof.Machine
end

