-- ==== Sys2Proof/Laws/PerInstr.lean ====
section
/-! SUPPORT. A fact for every operation as syntax: the length a reader without frame boundaries takes from the length
fields (30_encoding.md R72) is the length of the encoded frame. -/

namespace Sys2Proof.Laws.FrameLength

/-- R72 for one operation: its encoded frame has the length its length fields say, between 2 and 513 bytes. -/
def Statement (i : Instr) : Prop :=
  i.wf = true → streamLength (encode i) = (encode i).length ∧ 2 ≤ (encode i).length ∧ (encode i).length ≤ 513

theorem crc8 (seed : Byte) (data : List Byte) : Statement (.crc8 seed data) := by
  intro h
  simp only [Instr.wf] at h
  have hc := countByte_toNat h
  simp only [countFits, decide_eq_true_eq] at h
  simp [encode, Instr.operandBytes, Instr.opcode, formatLength, hc]
  omega

theorem crcchk (seed : Byte) (data : List Byte) (rcv : Byte) : Statement (.crcchk seed data rcv) := by
  intro h
  simp only [Instr.wf] at h
  have hc := countByte_toNat h
  simp only [countFits, decide_eq_true_eq] at h
  simp [encode, Instr.operandBytes, Instr.opcode, formatLength, hc]
  omega

theorem uregdec (u : Byte) : Statement (.uregdec u) := by
  intro _
  simp [encode, Instr.operandBytes, Instr.opcode, formatLength]

theorem uregres (cur res : Byte) : Statement (.uregres cur res) := by
  intro _
  simp [encode, Instr.operandBytes, Instr.opcode, formatLength]

theorem ureghtr (cur en : Byte) : Statement (.ureghtr cur en) := by
  intro _
  simp [encode, Instr.operandBytes, Instr.opcode, formatLength]

theorem htrdec (h : Byte) : Statement (.htrdec h) := by
  intro _
  simp [encode, Instr.operandBytes, Instr.opcode, formatLength]

theorem htrenc (level : Byte) : Statement (.htrenc level) := by
  intro _
  simp [encode, Instr.operandBytes, Instr.opcode, formatLength]

theorem measrh (flags : Byte) (b : List Byte) : Statement (.measrh flags b) := by
  intro h
  simp only [Instr.wf, Bool.and_eq_true] at h
  have hc := countByte_toNat h.2
  simp only [countFits, decide_eq_true_eq] at h
  simp [encode, Instr.operandBytes, Instr.opcode, formatLength, hc]
  omega

theorem meast (flags : Byte) (b : List Byte) : Statement (.meast flags b) := by
  intro h
  simp only [Instr.wf, Bool.and_eq_true] at h
  have hc := countByte_toNat h.2
  simp only [countFits, decide_eq_true_eq] at h
  simp [encode, Instr.operandBytes, Instr.opcode, formatLength, hc]
  omega

theorem snchk (a b : List Byte) : Statement (.snchk a b) := by
  intro h
  simp only [Instr.wf, Bool.and_eq_true] at h
  have ha := countByte_toNat h.1
  have hb := countByte_toNat h.2
  have hn : (encode (.snchk a b)).getD (2 + a.length) 0 = countByte b := by
    rw [Nat.add_comm]
    simp [encode, Instr.operandBytes]
  simp only [countFits, decide_eq_true_eq] at h
  simp only [encode, Instr.operandBytes, Instr.opcode, streamLength_code_cons, formatLength] at hn ⊢
  simp [ha] at hn ⊢
  simp [hn, hb]
  omega

theorem sntype (x : Byte) : Statement (.sntype x) := by
  intro _
  simp [encode, Instr.operandBytes, Instr.opcode, formatLength]

end Sys2Proof.Laws.FrameLength
end

