-- ==== Sys2Proof/Tests/Slice0.lean ====
section
/-! SUPPORT. The model's own tests. Expected bytes come from spec/95_test_vectors.md and the rules' worked examples; the
witnesses at the end show that the hypotheses of the statements can be met, clause by clause. -/

namespace Sys2Proof.Tests

open Sys2Proof.Machine Sys2Proof.Safety

set_option maxRecDepth 20000

/-! ### Well-formedness: one ill-formed term for each check -/

theorem test_wf_crc8_count : (Instr.crc8 0 (List.replicate 256 0)).wf = false := by
  simp only [Instr.wf, countFits, List.length_replicate]
  decide
theorem test_wf_crcchk_count : (Instr.crcchk 0 (List.replicate 256 0) 0).wf = false := by
  simp only [Instr.wf, countFits, List.length_replicate]
  decide
theorem test_wf_uregres_res : (Instr.uregres 0 4).wf = false := by decide
theorem test_wf_ureghtr_en : (Instr.ureghtr 0 2).wf = false := by decide
theorem test_wf_meas_flags : (Instr.measrh 2 []).wf = false ∧ (Instr.meast 0x80 []).wf = false := by decide
theorem test_wf_meas_count :
    (Instr.measrh 0 (List.replicate 256 0)).wf = false ∧ (Instr.meast 1 (List.replicate 256 0)).wf = false := by
  simp only [Instr.wf, countFits, List.length_replicate]
  decide
theorem test_wf_snchk_counts :
    (Instr.snchk (List.replicate 256 0) []).wf = false ∧ (Instr.snchk [] (List.replicate 256 0)).wf = false := by
  simp only [Instr.wf, countFits, List.length_replicate]
  decide

/-! ### The opcode map and the decoder (R61 to R72) -/

theorem test_opcodes_distinct : (Opcode.all.map Opcode.code).Nodup := by decide
theorem test_opcode_map_ends :
    Opcode.ofByte 0x00 = none ∧ Opcode.ofByte 0x0C = none ∧ Opcode.ofByte 0xFF = none
      ∧ Opcode.ofByte 0x01 = some .crc8 ∧ Opcode.ofByte 0x0B = some .sntype := by decide

theorem test_decode_crc8 : decode [0x01, 0xFF, 0x02, 0xBE, 0xEF] = .ok (.crc8 0xFF [0xBE, 0xEF]) := by decide
theorem test_decode_crcchk : decode [0x02, 0x00, 0x02, 0xBE, 0xEF, 0x13] = .ok (.crcchk 0x00 [0xBE, 0xEF] 0x13) := by
  decide
theorem test_decode_uregdec : decode [0x03, 0x3A] = .ok (.uregdec 0x3A) := by decide
theorem test_decode_uregres : decode [0x04, 0x3A, 0x03] = .ok (.uregres 0x3A 0x03) := by decide
theorem test_decode_ureghtr : decode [0x05, 0xBB, 0x01] = .ok (.ureghtr 0xBB 0x01) := by decide
theorem test_decode_htrdec : decode [0x06, 0xF5] = .ok (.htrdec 0xF5) := by decide
theorem test_decode_htrenc : decode [0x07, 0x0F] = .ok (.htrenc 0x0F) := by decide
theorem test_decode_measrh : decode [0x08, 0x01, 0x03, 0x80, 0x00, 0x23] = .ok (.measrh 0x01 [0x80, 0x00, 0x23]) := by
  decide
theorem test_decode_meast : decode [0x09, 0x00, 0x02, 0x66, 0xE0] = .ok (.meast 0x00 [0x66, 0xE0]) := by decide
theorem test_decode_snchk : decode [0x0A, 0x01, 0xA0, 0x02, 0xB0, 0xB1] = .ok (.snchk [0xA0] [0xB0, 0xB1]) := by decide
theorem test_decode_sntype : decode [0x0B, 0x14] = .ok (.sntype 0x14) := by decide

/-- V-ILL-1 to V-ILL-10, V-MEAS-27, V-SN-21: each by the check that R69 names first. -/
theorem test_decode_illegal :
    decode [] = .error .emptyFrame ∧ decode [0x00] = .error .badOpcode ∧ decode [0x0C, 0x00] = .error .badOpcode
      ∧ decode [0x03] = .error .badLength ∧ decode [0x03, 0x3A, 0x00] = .error .badLength
      ∧ decode [0x01, 0x00] = .error .badLength ∧ decode [0x01, 0x00, 0x02, 0x12] = .error .badLength
      ∧ decode [0x02, 0x00, 0x01, 0x12] = .error .badLength ∧ decode [0x04, 0x3A, 0x04] = .error .badOperand
      ∧ decode [0x05, 0x3A, 0x02] = .error .badOperand ∧ decode [0x08, 0x02, 0x02, 0x00, 0x00] = .error .badOperand
      ∧ decode [0x08, 0x00, 0x03, 0x00, 0x00] = .error .badLength ∧ decode [0x0A] = .error .badLength
      ∧ decode [0x0A, 0x01, 0xA0] = .error .badLength := by decide

/-- Rows of the opcode table, one byte, operands zero. -/
theorem test_table_words :
    decodeTableWord 8 0x01 = some (.crc8 0 []) ∧ decodeTableWord 8 0x02 = some (.crcchk 0 [] 0)
      ∧ decodeTableWord 8 0x04 = some (.uregres 0 0) ∧ decodeTableWord 8 0x08 = some (.measrh 0 [])
      ∧ decodeTableWord 8 0x0A = some (.snchk [] []) ∧ decodeTableWord 8 0x0B = some (.sntype 0)
      ∧ decodeTableWord 8 0x0C = none := by decide

/-- A wider word: the second byte is bits 15..8. -/
theorem test_table_word_operand : decodeTableWord 16 0x1507 = some (.htrenc 0x15) := by decide

/-! ### One step a test -/

/-- RSP after one step that submits the frame to the block right after reset. -/
def rspAfter (q : Frame) : Option Frame :=
  match step { State.reset with host := [.submit q] } with
  | .next t => t.rsp
  | _ => none

/-- V-CRC-2 and V-CRC-9. -/
theorem test_crc8_no_data : rspAfter [0x01, 0xAB, 0x00] = some [0x00, 0xAB] := by decide
theorem test_crc8_two_bytes : rspAfter [0x01, 0x00, 0x02, 0xBE, 0xEF] = some [0x00, 0x13] := by decide
/-- V-CHK-2 and V-CHK-4. -/
theorem test_crcchk_mismatch : rspAfter [0x02, 0x00, 0x01, 0x12, 0x00] = some [0x01, 0x21, 0x00] := by decide
theorem test_crcchk_seed : rspAfter [0x02, 0x5A, 0x00, 0x5A] = some [0x00, 0x5A, 0x5A] := by decide
/-- V-REG-4a and V-REG-4e. -/
theorem test_uregdec_high_bit : rspAfter [0x03, 0x80] = some [0x00, 0x02, 0x00, 0x00] := by decide
theorem test_uregdec_voltage : rspAfter [0x03, 0x40] = some [0x00, 0x00, 0x00, 0x01] := by decide
/-- V-REG-8 and V-REG-10. -/
theorem test_uregres_code2 : rspAfter [0x04, 0x3A, 0x02] = some [0x00, 0xE6, 0xBA] := by decide
theorem test_uregres_keeps : rspAfter [0x04, 0xFF, 0x01] = some [0x00, 0xE6, 0x7F] := by decide
/-- V-REG-17 and V-REG-20. -/
theorem test_ureghtr_off : rspAfter [0x05, 0xFF, 0x00] = some [0x00, 0xE6, 0xFB] := by decide
theorem test_ureghtr_on : rspAfter [0x05, 0xBB, 0x01] = some [0x00, 0xE6, 0xBF] := by decide
/-- V-HTR-4 and V-HTR-6. -/
theorem test_htrdec_low : rspAfter [0x06, 0xF5] = some [0x00, 0x05] := by decide
theorem test_htrdec_high : rspAfter [0x06, 0x10] = some [0x00, 0x00] := by decide
/-- V-HTR-11 and V-HTR-12. -/
theorem test_htrenc_masked : rspAfter [0x07, 0x10] = some [0x00, 0x51, 0x00] := by decide
theorem test_htrenc_all_ones : rspAfter [0x07, 0xFF] = some [0x00, 0x51, 0x0F] := by decide
/-- V-MEAS-15 (above 100 %RH, no clamp) and V-MEAS-19. -/
theorem test_measrh_unclamped :
    rspAfter [0x08, 0x01, 0x03, 0xE0, 0x00, 0x76] = some [0x00, 0xE0, 0x00, 0x28, 0x62, 0x76, 0x76] := by decide
theorem test_measrh_mismatch :
    rspAfter [0x08, 0x01, 0x03, 0x80, 0x00, 0x22] = some [0x01, 0x00, 0x00, 0x00, 0x00, 0x23, 0x22] := by decide
/-- V-MEAS-10 (the tie) and V-MEAS-23. -/
theorem test_meast_tie :
    rspAfter [0x09, 0x01, 0x03, 0x60, 0x00, 0x55] = some [0x00, 0x60, 0x00, 0x07, 0x71, 0x55, 0x55] := by decide
theorem test_meast_no_bytes : rspAfter [0x09, 0x00, 0x00] = some [0x02, 0, 0, 0, 0, 0, 0] := by decide
/-- V-SN-5: a corrupted CRC byte in the middle of the chain fails its own check and the next. -/
theorem test_snchk_corrupted :
    rspAfter [0x0A, 0x08, 0x12, 0x21, 0x34, 0xB7, 0x56, 0xC1, 0x78, 0x37, 0x06, 0x15, 0xFF, 0xB5, 0xAB, 0xCD, 0x08]
      = some [0x01, 0, 0, 0, 0, 0, 0, 0, 0, 0x00, 0x06, 0x21, 0x21, 0xB6, 0xB7, 0xF0, 0xC1, 0x37, 0x37, 0xB5, 0xB5, 0x08,
          0x08] := by decide
/-- V-SN-19. -/
theorem test_snchk_empty : rspAfter [0x0A, 0x00, 0x00] = some (0x02 :: List.replicate 22 0) := by decide
/-- V-SN-22 and V-SN-26. -/
theorem test_sntype_sample : rspAfter [0x0B, 0xFF] = some [0x00, 0x01] := by decide
theorem test_sntype_unknown : rspAfter [0x0B, 0x16] = some [0x00, 0x00] := by decide
/-- V-ILL-3 and V-ILL-5. -/
theorem test_illegal_opcode : rspAfter [0x0C, 0x00] = some [0x03] := by decide
theorem test_illegal_length : rspAfter [0x03, 0x3A, 0x00] = some [0x03] := by decide

/-- V-ST-1, V-ST-3: a read after reset is the fault. -/
theorem test_read_after_reset : State.reset.readRsp = .error .rspUnwritten := by decide
/-- V-ST-2: a read after a response answers it. -/
theorem test_read_after_response : (State.reset.respond .ok [0x04]).readRsp = .ok [0x00, 0x04] := by decide
/-- A table word runs as the first instruction after reset. -/
theorem test_fetch_word :
    (match step (State.reset.withFetchWord 16 0x0907) with
      | .next t => t.rsp
      | _ => none) = some [0x00, 0x51, 0x09] := by decide

/-- P5, step 4: the request after the reset of step 2, in the state that the read of step 3 leaves (log 16). -/
theorem test_request_after_reset :
    (match step { (State.reset.respond .ok [0x51, 0x09]).clear with host := [.submit [0x06, 0x09]] } with
      | .next t => t.rsp
      | _ => none) = some [0x00, 0x09] := by decide

/-- The two requests of P5 with no reset and no read between them (R253). -/
theorem test_observation : observation [[0x07, 0x09], [0x06, 0x09]] State.reset = [[0x00, 0x51, 0x09], [0x00, 0x09]] := by
  decide

/-! ### Host-side notation and data -/

/-- R73: a list statement; the braces are characters 123 and 125. -/
theorem test_parse_crcchk :
    parseLine ("crcchk 0x00, ".toList ++ [Char.ofNat 123] ++ "0x12".toList ++ [Char.ofNat 125] ++ ", 0".toList)
      = .ok (.stmt (.crcchk 0 [0x12] 0)) := by decide
/-- R73: a named resolution. -/
theorem test_parse_uregres : parseLine "uregres 0x3A, rh11_t11".toList = .ok (.stmt (.uregres 0x3A 3)) := by decide
/-- R73: rejected values. -/
theorem test_asm_rejects :
    (AsmStmt.uregres 0x3A 4).assemble = .error .fieldRange ∧ (AsmStmt.htrenc 256).assemble = .error .byteRange := by decide
/-- R74. -/
theorem test_asm_cvtt : (AsmStmt.cvtt 0x66E0).assemble = .ok [0x09, 0x00, 0x02, 0x66, 0xE0] := by decide
/-- R74, P4: the chain's requests carry the seeds 00, 21, B6. -/
theorem test_crcchain :
    crcchainRequests 0 [0x12, 0x34, 0x56] State.reset
      = [[0x01, 0x00, 0x01, 0x12], [0x01, 0x21, 0x01, 0x34], [0x01, 0xB6, 0x01, 0x56]] := by decide
/-- R75: two-byte commands. -/
theorem test_catalog :
    SensorCommand.readIdPart1.wire = [0xFA, 0x0F] ∧ SensorCommand.temperatureFromPrevious.request true [0x66, 0xE0]
      = some (.meast 0 [0x66, 0xE0]) := by decide

/-- R249, P1 step 2: from the byte read, with nothing cached. -/
theorem test_change_register :
    (changeRegister (.resolution 3) .fresh 0x3A State.reset).map (fun r => (r.1, r.2.1))
      = some ([0xE6, 0xBB], .cached 0xBB) := by decide

/-! ### The hypotheses of the statements can be met -/

/-- The reply of 95_test_vectors.md V-SN-1. -/
def baseReply : IdReply :=
  ⟨0x12, 0x21, 0x34, 0xB6, 0x56, 0xC1, 0x78, 0x37, 0x15, 0xFF, 0xB5, 0xAB, 0xCD, 0x08⟩

/-- A state with a response, and a host with nothing to do. -/
def respondedState : State := { rsp := some [0x00, 0x04], rspValid := true, host := [] }

theorem witness_ReadingUnwrittenRspFaults : Legal State.reset = true ∧ State.reset.rspValid = false := by decide
theorem witness_HostReadsHaveNoSideEffect :
    respondedState.rspValid = true ∧ respondedState.rsp = some [0x00, 0x04] := by decide
theorem witness_StepRunsTheDecodedOperation :
    ({ State.reset with host := [.submit [0x0B, 0x15]] } : State).host = [.submit [0x0B, 0x15]]
      ∧ decode [0x0B, 0x15] = .ok (.sntype 0x15) := by decide
/-- Each clause at the boundary of its range. -/
theorem witness_IllegalFramesGetIllegalRequest :
    legalRequest [0x04, 0x3A, 0x03] = true ∧ legalRequest [0x04, 0x3A, 0x04] = false
      ∧ legalRequest [0x05, 0x3A, 0x01] = true ∧ legalRequest [0x05, 0x3A, 0x02] = false
      ∧ legalRequest [0x08, 0x01, 0x00] = true ∧ legalRequest [0x08, 0x02, 0x00] = false
      ∧ legalRequest [0x0A, 0x00, 0x00] = true ∧ legalRequest [0x0A, 0x00] = false ∧ legalRequest [] = false
      ∧ 0x0C ≤ (0x0C : Byte).toNat ∧ 0x0C ≤ (0xFF : Byte).toNat ∧ 3 < (4 : Byte).toNat ∧ 1 < (2 : Byte).toNat := by
  decide
theorem witness_DecodedOperandsAreTheFieldsOfTheFrame :
    decode [0x0A, 0x02, 0x11, 0x22, 0x01, 0x33] = .ok (.snchk [0x11, 0x22] [0x33]) := by decide
theorem witness_LegalFramesHaveOneMeaning : decode [0x08, 0x01, 0x00] = .ok (.measrh 0x01 []) := by decide
/-- The longest lists and the largest restricted operands. -/
theorem witness_DecodeEncodeRoundTrip :
    (Instr.snchk (List.replicate 255 0) (List.replicate 255 0)).wf = true ∧ (Instr.uregres 0xFF 3).wf = true
      ∧ (Instr.ureghtr 0xFF 1).wf = true ∧ (Instr.meast 1 (List.replicate 255 0)).wf = true := by
  simp only [Instr.wf, countFits, List.length_replicate]
  decide
theorem witness_Crc8AnswersTheCrc :
    (List.replicate 255 (0 : Byte)).length ≤ 255
      ∧ ([0x01, 0x00] : Frame).head? = some 0x01 ∧ ([0x01, 0x00] : Frame).length < 3
      ∧ ([0x01, 0x00, 0x02, 0x12] : Frame).length ≠ 3 + num [0x01, 0x00, 0x02, 0x12] 2 := by
  simp only [num, List.length_replicate]
  decide
theorem witness_CrcchkComparesTheReceivedByte :
    (List.replicate 255 (0 : Byte)).length ≤ 255
      ∧ ([0x02, 0x00] : Frame).head? = some 0x02 ∧ ([0x02, 0x00] : Frame).length < 3
      ∧ ([0x02, 0x00, 0x00] : Frame).length ≠ 4 + num [0x02, 0x00, 0x00] 2 := by
  simp only [num, List.length_replicate]
  decide
theorem witness_UregdecDecodesTheFields : ([0x03] : Frame).head? = some 0x03 ∧ ([0x03] : Frame).length ≠ 2 := by decide
theorem witness_UregresSetsTheResolution :
    (3 : Byte).toNat ≤ 3 ∧ ([0x04, 0x3A, 0x04] : Frame).head? = some 0x04 ∧ 3 < num [0x04, 0x3A, 0x04] 2
      ∧ ([0x04, 0x3A] : Frame).head? = some 0x04 ∧ ([0x04, 0x3A] : Frame).length ≠ 3 := by decide
theorem witness_UreghtrSetsTheHeaterEnable :
    (1 : Byte).toNat ≤ 1 ∧ ([0x05, 0x3A, 0x02] : Frame).head? = some 0x05 ∧ 1 < num [0x05, 0x3A, 0x02] 2
      ∧ ([0x05, 0x3A] : Frame).head? = some 0x05 ∧ ([0x05, 0x3A] : Frame).length ≠ 3 := by decide
theorem witness_HtrdecDecodesTheLevel : ([0x06] : Frame).head? = some 0x06 ∧ ([0x06] : Frame).length ≠ 2 := by decide
theorem witness_HtrencEncodesTheMaskedLevel :
    ([0x07, 0, 0] : Frame).head? = some 0x07 ∧ ([0x07, 0, 0] : Frame).length ≠ 2 := by decide
/-- A mismatch, a wrong count on either side of the right one, and the three ways to be illegal. -/
theorem witness_MeasrhConvertsHumidity :
    crc8 0x00 [0x80, 0x00] ≠ 0x22 ∧ (1 : Byte).toNat ≤ 1 ∧ ([0x80, 0x00] : Frame).length ≠ 2 + (1 : Byte).toNat
      ∧ ([0x80, 0x00, 0x23] : Frame).length ≠ 2 + (0 : Byte).toNat ∧ ([0x08, 0x00] : Frame).length < 3
      ∧ ([0x08, 0x00, 0x02, 0x00] : Frame).length ≠ 3 + num [0x08, 0x00, 0x02, 0x00] 2
      ∧ 1 < num [0x08, 0x02, 0x00] 1 := by decide
theorem witness_MeastConvertsTemperature :
    crc8 0x00 [0x66, 0xE0] ≠ 0x00 ∧ (1 : Byte).toNat ≤ 1 ∧ ([0x66, 0xE0] : Frame).length ≠ 2 + (1 : Byte).toNat
      ∧ ([0x66, 0xE0, 0xCE] : Frame).length ≠ 2 + (0 : Byte).toNat ∧ ([0x09, 0x01] : Frame).length < 3
      ∧ ([0x09, 0x00, 0x02, 0x00] : Frame).length ≠ 3 + num [0x09, 0x00, 0x02, 0x00] 2
      ∧ 1 < num [0x09, 0xFF, 0x02, 0x00, 0x00] 1 := by decide
theorem witness_SnchkJudgesTheReplies :
    ([0x12] : Frame).length ≠ 8 ∧ (partA baseReply).length = 8 ∧ (partB baseReply).length = 6
      ∧ ([0x0A] : Frame).length < 2 ∧ ([0x0A, 0x01, 0x00] : Frame).length < 3 + num [0x0A, 0x01, 0x00] 1
      ∧ ([0x0A, 0x00, 0x01] : Frame).length
          ≠ 3 + num [0x0A, 0x00, 0x01] 1 + num [0x0A, 0x00, 0x01] (2 + num [0x0A, 0x00, 0x01] 1) := by decide
theorem witness_SntypeDecodesTheSensorType : ([0x0B] : Frame).head? = some 0x0B ∧ ([0x0B] : Frame).length ≠ 2 := by decide
theorem witness_CrcChains : (List.replicate 100 (1 : Byte)).length + (List.replicate 155 (2 : Byte)).length ≤ 255 := by simp
theorem witness_OneByteCrcIsALinearBijection : (0x00 : Byte) ≠ 0xFF := by decide
theorem witness_RegisterRoundTrips : (3 : Byte).toNat ≤ 3 ∧ (1 : Byte).toNat ≤ 1 ∧ (15 : Byte).toNat ≤ 15 := by decide
theorem witness_ConversionsAreExact : (0 : Half).toNat ≤ (65535 : Half).toNat := by decide
/-- The values beside the end bins. -/
theorem witness_HumidityQuantization : (-600 : ℤ) < -599 ∧ (-599 : ℤ) < 11900 ∧ (-600 : ℤ) < 11899 ∧ (11899 : ℤ) < 11900 := by
  decide
theorem witness_TemperatureQuantization :
    (-4685 : ℤ) < -4684 ∧ (-4684 : ℤ) < 12887 ∧ (-4685 : ℤ) < 12886 ∧ (12886 : ℤ) < 12887 := by decide
/-- The base reply passes: SNCHK answers OK to it (V-SN-1). -/
theorem witness_PassingCrcsAreCumulative :
    Responds ([0x0A] ++ counted (partA baseReply) ++ counted (partB baseReply))
      (0x00 :: [0x12, 0x34, 0x56, 0x78, 0x15, 0xFF, 0xAB, 0xCD, 0x04, 0x00, 0x21, 0x21, 0xB6, 0xB6, 0xC1, 0xC1, 0x37, 0x37,
        0xB5, 0xB5, 0x08, 0x08]) := fun _ _ => rfl
/-- The base reply passes, and its first and its last byte have another value. -/
theorem witness_SingleByteCorruptionIsLocated :
    (∃ ok, Responds ([0x0A] ++ counted (partA baseReply) ++ counted (partB baseReply)) (0x00 :: ok))
      ∧ (0 : Nat) < 14 ∧ (partA baseReply ++ partB baseReply).getD 0 0 ≠ 0x13
      ∧ (13 : Nat) < 14 ∧ (partA baseReply ++ partB baseReply).getD 13 0 ≠ 0x09 :=
  ⟨⟨_, witness_PassingCrcsAreCumulative⟩, by decide, by decide, by decide, by decide⟩
theorem witness_StatusesAndLengthsFollowTheTable : (Instr.measrh 1 [0x80, 0x00, 0x23]).wf = true := by decide
theorem witness_StepKeepsTheResponseLegal :
    Legal { State.reset with host := [.submit [0x0B, 0x15]] } = true
      ∧ step { State.reset with host := [.submit [0x0B, 0x15]] } = .next respondedState := ⟨rfl, rfl⟩
theorem witness_ResponseStaysUntilTheNextRequest :
    (∀ q rest, [HostAction.readRsp] ≠ .submit q :: rest) ∧ (∀ q rest, [HostAction.readRsp] ≠ .assertReset q :: rest)
      ∧ step { respondedState with host := [.readRsp] } = .next respondedState ∧ respondedState.host = [] :=
  ⟨by simp, by simp, rfl, rfl⟩
theorem witness_OnlyAnUnwrittenReadStopsTheMachine :
    step { State.reset with host := [.readRsp] } = .fault .rspUnwritten := rfl
/-- An accepted statement of every shape: no list, a list, two lists, a field, a pseudo-instruction. -/
theorem witness_AssembledStatementsDecode :
    (AsmStmt.sntype 0x14).assemble = .ok [0x0B, 0x14]
      ∧ (AsmStmt.crcchk 0x00 [0x12] 0x21).assemble = .ok [0x02, 0x00, 0x01, 0x12, 0x21]
      ∧ (AsmStmt.uregres 0x3A 3).assemble = .ok [0x04, 0x3A, 0x03]
      ∧ (AsmStmt.measrh true [0x80, 0x00, 0x23]).assemble = .ok [0x08, 0x01, 0x03, 0x80, 0x00, 0x23]
      ∧ (AsmStmt.snchk [] [0x11]).assemble = .ok [0x0A, 0x00, 0x01, 0x11]
      ∧ (AsmStmt.cvtrh 0x8000).assemble = .ok [0x08, 0x00, 0x02, 0x80, 0x00] := by decide
/-- Each clause at the boundary of its range. -/
theorem witness_AssemblerFollowsTheTable :
    (List.replicate 255 (0xFF : Byte)).length ≤ 255 ∧ (3 : Byte).toNat ≤ 3 ∧ (1 : Byte).toNat ≤ 1 ∧ 255 < 256
      ∧ (∃ n ∈ [0, 256], 255 < n) ∧ 3 < 4 ∧ 1 < 2 := by
  simp only [List.length_replicate]
  decide
theorem witness_RegisterChangeTransmitsTheMergedByte : (3 : Byte).toNat ≤ 3 ∧ (1 : Byte).toNat ≤ 1 := by decide

end Sys2Proof.Tests
end

section
/-! PROOFS. Every operation answers with one frame, a function of its operands alone (R9, R10): the frame is written down
once, operation by operation, and exec is one write of it. -/

namespace Sys2Proof

open Sys2Proof.Machine Sys2Proof.Safety

/-- The response of MEASRH and MEAST to what measure_check found (R153, R154). -/
def measResponse (conv : Half → Int) : MeasCheck → Frame
  | .malformed => 0x02 :: List.replicate 6 0
  | .mismatch (e, a) => [0x01, 0, 0, 0, 0, e, a]
  | .good hi lo (e, a) => 0x00 :: ([hi, lo] ++ halfBytes (s16 (conv (be16 hi lo))) ++ [e, a])

/-- The response of SNCHK to the replies it read, none when a count was wrong (R183). -/
def snchkResponse : Option IdReply → Frame
  | none => 0x02 :: List.replicate 22 0
  | some r =>
    if mismatchMask 0 (chainPairs r) = 0 then
      0x00 :: (serialBytes (serialOf r) ++ [(sensorType r.snb3).code, 0] ++ pairBytes (chainPairs r))
    else
      0x01 :: (List.replicate 8 0 ++ [0, mismatchMask 0 (chainPairs r)] ++ pairBytes (chainPairs r))

/-- The response frame of an operation, whatever the state. -/
def Instr.response : Instr → Frame
  | .crc8 seed data => [0x00, Machine.crc8 seed data]
  | .crcchk seed data rcv => [if Machine.crc8 seed data = rcv then 0x00 else 0x01, Machine.crc8 seed data, rcv]
  | .uregdec u => [0x00, resolutionOf u, heaterOf u, voltageLowOf u]
  | .uregres cur res => [0x00, writeUserReg, withResolution cur res]
  | .ureghtr cur en => [0x00, writeUserReg, withHeater cur en]
  | .htrdec h => [0x00, h &&& levelMask]
  | .htrenc level => [0x00, writeHeaterReg, level &&& levelMask]
  | .measrh flags b => measResponse rhCenti (measureCheck (expectCrc flags) b)
  | .meast flags b => measResponse tCenti (measureCheck (expectCrc flags) b)
  | .snchk a b => snchkResponse (readReply a b)
  | .sntype x => [0x00, (sensorType x).code]

/-- A state that has answered is the state with one write of RSP. -/
theorem answered_eq_writeRsp (s : State) (r : Frame) : answered s r = s.writeRsp r := rfl

/-- The conversion shared by MEASRH and MEAST is one write of the response to what measure_check found. -/
theorem convertReply_eq_writeRsp (conv : Half → Int) (flags : Byte) (b : List Byte) (s : State) :
    convertReply conv flags b s = s.writeRsp (measResponse conv (measureCheck (expectCrc flags) b)) := by
  rcases convertReply_cases conv flags b s with
    ⟨hcheck, hreply⟩ | ⟨e, a, hcheck, hreply⟩ | ⟨hi, lo, e, a, hcheck, hreply⟩
  all_goals rw [hreply, hcheck, measResponse]

/-- The judgement of a reply of the right counts is one write of RSP. -/
theorem judgeReply_eq_writeRsp (r : IdReply) (s : State) :
    judgeReply r s = s.writeRsp (snchkResponse (some r)) := by
  rcases judgeReply_cases r s with ⟨hmask, hreply⟩ | ⟨hmask, hreply⟩
  · rw [hreply, snchkResponse, if_neg hmask]
  · rw [hreply, snchkResponse, if_pos hmask]

/-- CRCCHK writes both bytes in either outcome; the comparison decides the status alone (R102). -/
theorem execCrcchk_eq_writeRsp (seed : Byte) (data : List Byte) (rcv : Byte) (s : State) :
    execCrcchk seed data rcv s = .next (s.writeRsp (Instr.crcchk seed data rcv).response) := by
  by_cases h : crc8 seed data = rcv
  · simp [execCrcchk, crcDiffers, Instr.response, h, State.respond_eq, Status.code, pairBytes]
  · simp [execCrcchk, crcDiffers, Instr.response, h, State.raise_eq, ErrorReport.status, ErrorReport.body,
      Status.code, pairBytes]

/-- SNCHK writes RSP whether or not the replies have the right counts (R183). -/
theorem execSnchk_eq_writeRsp (a b : List Byte) (s : State) :
    execSnchk a b s = .next (s.writeRsp (snchkResponse (readReply a b))) := by
  unfold execSnchk
  cases readReply a b with
  | none => rfl
  | some r => exact congrArg _ (judgeReply_eq_writeRsp r s)

/-- What every operation does, said once: one write of its response (R9, R10). -/
theorem exec_eq_writeRsp (i : Instr) (s : State) : exec i s = .next (s.writeRsp i.response) := by
  cases i with
  | crcchk seed data rcv => exact execCrcchk_eq_writeRsp seed data rcv s
  | measrh flags b => exact congrArg _ (convertReply_eq_writeRsp rhCenti flags b s)
  | meast flags b => exact congrArg _ (convertReply_eq_writeRsp tCenti flags b s)
  | snchk a b => exact execSnchk_eq_writeRsp a b s
  | crc8 | uregdec | uregres | ureghtr | htrdec | htrenc | sntype => rfl

/-- Every operation completes with its response from every state, and changes nothing else (R10). -/
theorem completes_response (i : Instr) : Completes i i.response := by
  intro s
  rw [exec_eq_writeRsp, answered_eq_writeRsp]

/-- Settles O37: the one frame is Instr.response, which takes the operation and no state. -/
theorem operationsWriteOnlyTheResponse : Obligations.OperationsWriteOnlyTheResponse := by
  unfold Obligations.OperationsWriteOnlyTheResponse
  exact fun i => ⟨i.response, completes_response i⟩

end Sys2Proof
end

section
/-! PROOFS. The invariant of RSP (R21, R26, R27, R68): every operation's response has one of R68's layouts, a request
frame gets a response that is a function of the frame, and a step writes RSP in no other way. -/

namespace Sys2Proof

open Sys2Proof.Machine Sys2Proof.Safety

/-- Each pair contributes at most its own bit, so the mask stays below the bit after the last pair (R181). -/
theorem mismatchMask_toNat_lt (k : Nat) (ps : List CrcPair) : (mismatchMask k ps).toNat < 2 ^ (k + ps.length) := by
  induction ps generalizing k with
  | nil => simp [mismatchMask]
  | cons p ps ih =>
    have hbit : (if crcDiffers p then 1 <<< k else 0) < 2 ^ (k + (p :: ps).length) := by
      split
      · rw [Nat.one_shiftLeft]
        exact Nat.pow_lt_pow_right (by decide) (by simp)
      · simp
    have hrest : (mismatchMask (k + 1) ps).toNat < 2 ^ (k + (p :: ps).length) := by
      simpa [Nat.add_assoc, Nat.add_comm 1] using ih (k + 1)
    rw [mismatchMask, BitVec.toNat_or]
    exact Nat.or_lt_two_pow ((Nat.mod_le _ _).trans_lt hbit) hrest

/-- The mask of the six serial-number checks uses bits 5:0 alone (R181). -/
theorem mismatchMask_chainPairs_lt (r : IdReply) : (mismatchMask 0 (chainPairs r)).toNat < 0x40 :=
  mismatchMask_toNat_lt 0 (chainPairs r)

/-- The response to a measurement has a layout of R68, whatever the check found and the conversion gives. -/
theorem legalResponse_measResponse (conv : Half → Int) (c : MeasCheck) : legalResponse (measResponse conv c) = true := by
  cases c with
  | malformed => rfl
  | mismatch p => rfl
  | good hi lo p => rfl

/-- The response to the ID replies has a layout of R68: the mask is 0 under OK, and neither 0 nor above bit 5 under a
mismatch. -/
theorem legalResponse_snchkResponse (o : Option IdReply) : legalResponse (snchkResponse o) = true := by
  cases o with
  | none => rfl
  | some r =>
    by_cases hmask : mismatchMask 0 (chainPairs r) = 0
    · rw [snchkResponse, if_pos hmask]
      rfl
    · rw [snchkResponse, if_neg hmask]
      have hlt := mismatchMask_chainPairs_lt r
      simpa [legalResponse, zeros, chainPairs, pairBytes] using And.intro hmask hlt

/-- Every operation's response has a layout of R68. -/
theorem legalResponse_response (i : Instr) : legalResponse i.response = true := by
  cases i with
  | crcchk seed data rcv => by_cases h : crc8 seed data = rcv <;> simp [Instr.response, legalResponse, h]
  | measrh flags b => exact legalResponse_measResponse rhCenti _
  | meast flags b => exact legalResponse_measResponse tCenti _
  | snchk a b => exact legalResponse_snchkResponse _
  | crc8 | uregdec | uregres | ureghtr | htrdec | htrenc | sntype => rfl

/-- The response to a request frame, legal or not, whatever the state (R43, R69). -/
def frameResponse (q : Frame) : Frame :=
  match decode q with
  | .ok i => i.response
  | .error _ => [0x03]

/-- What the port does with a request frame, said once: one write of its response. -/
theorem serve_eq_writeRsp (q : Frame) (s : State) : serve q s = .next (s.writeRsp (frameResponse q)) := by
  rcases serve_cases q s with ⟨i, hq, hserve⟩ | ⟨why, hq, hserve⟩
  · rw [hserve, exec_eq_writeRsp, frameResponse, hq]
  · rw [hserve, frameResponse, hq]

/-- The response to a request frame has a layout of R68. -/
theorem legalResponse_frameResponse (q : Frame) : legalResponse (frameResponse q) = true := by
  unfold frameResponse
  cases decode q with
  | ok i => exact legalResponse_response i
  | error why => rfl

/-- Every request frame gets its response from every state in one step, and nothing else changes. -/
theorem responds_frameResponse (q : Frame) : Responds q (frameResponse q) := by
  intro s rest
  rw [step_act rfl, hostAct, serve_eq_writeRsp]
  rfl

@[simp] theorem legal_withHost (s : State) (h : List HostAction) : Legal (s.withHost h) = Legal s := rfl
@[simp] theorem legal_writeRsp (s : State) (r : Frame) : Legal (s.writeRsp r) = legalResponse r := rfl
@[simp] theorem legal_clear (s : State) : Legal s.clear = true := rfl

/-- In a legal state RSP_VALID tells whether RSP holds a value (R21, R27). -/
theorem rspValid_of_legal {s : State} (h : Legal s = true) : s.rspValid = s.rsp.isSome := by
  unfold Legal at h
  split at h <;> simp_all

/-- A host read of RSP faults only where RSP holds no value or RSP_VALID is 0 (R27). -/
theorem unwritten_of_readRsp_error {s : State} {f : Fault} (h : s.readRsp = .error f) :
    s.rspValid = false ∨ s.rsp = none := by
  rcases s.readRsp_cases with ⟨r, -, -, hok⟩ | ⟨hunwritten, -⟩
  · simp [hok] at h
  · exact hunwritten

/-- What a step makes of the pair RSP, RSP_VALID: it leaves the pair, writes a request's response, or clears it; and only
a host read without a value stops the machine. -/
theorem step_outcome (s : State) :
    (∃ rest, step s = .next (s.withHost rest)) ∨
      (∃ rest q, step s = .next ((s.withHost rest).writeRsp (frameResponse q))) ∨
      (∃ rest, step s = .next (s.withHost rest).clear) ∨
      ((∃ rest, s.host = .readRsp :: rest) ∧ (s.rspValid = false ∨ s.rsp = none) ∧
        step s = .fault .rspUnwritten) := by
  rcases step_cases s with ⟨-, hidle⟩ | ⟨q, rest, -, hserve⟩ | ⟨-, rest, -, hclear⟩ | ⟨rest, -, -, -, hread⟩ |
    ⟨rest, hhost, herr, hfault⟩ | ⟨rest, -, hread⟩
  · exact .inl ⟨s.host, hidle⟩
  · exact .inr (.inl ⟨rest, q, hserve.trans (serve_eq_writeRsp q _)⟩)
  · exact .inr (.inr (.inl ⟨rest, hclear⟩))
  · exact .inl ⟨rest, hread⟩
  · exact .inr (.inr (.inr ⟨⟨rest, hhost⟩, unwritten_of_readRsp_error herr, hfault⟩))
  · exact .inl ⟨rest, hread⟩

/-- Settles O38: a step leaves the pair as it is, writes a response of R68's layouts, or clears the pair. -/
theorem stepKeepsTheResponseLegal : Obligations.StepKeepsTheResponseLegal := by
  unfold Obligations.StepKeepsTheResponseLegal
  intro s t hs ht
  rcases step_outcome s with ⟨rest, hkeep⟩ | ⟨rest, q, hwrite⟩ | ⟨rest, hclear⟩ | ⟨-, -, hfault⟩
  · rw [hkeep] at ht
    cases ht
    rw [legal_withHost, hs]
  · rw [hwrite] at ht
    cases ht
    rw [legal_writeRsp, legalResponse_frameResponse]
  · rw [hclear] at ht
    cases ht
    exact legal_clear _
  · simp [hfault] at ht

/-- Settles O39: RSP_VALID is 0 and RSP holds no value. -/
theorem resetIsLegal : Obligations.ResetIsLegal := by
  unfold Obligations.ResetIsLegal
  exact legal_clear State.reset

/-- Settles O35: the response is frameResponse, which takes the frame and no state. -/
theorem everyRequestIsAnsweredByItsFrameAlone : Obligations.EveryRequestIsAnsweredByItsFrameAlone := by
  unfold Obligations.EveryRequestIsAnsweredByItsFrameAlone
  exact fun q => ⟨frameResponse q, legalResponse_frameResponse q, responds_frameResponse q⟩

end Sys2Proof
end

section
/-! PROOFS. The host's reads and the one stop (R21, R26, R27): a read answers what stands there or is the fault
RspUnwritten, and no other step stops. -/

namespace Sys2Proof

open Sys2Proof.Machine Sys2Proof.Safety

/-- A read of RSP while RSP_VALID is 0 is the fault, whatever RSP holds (R27). -/
theorem readRsp_of_not_valid {s : State} (h : s.rspValid = false) : s.readRsp = .error .rspUnwritten := by
  simp [State.readRsp, h]

/-- A read of a written RSP answers the frame in it (R21). -/
theorem readRsp_of_written {s : State} {r : Frame} (hv : s.rspValid = true) (hr : s.rsp = some r) :
    s.readRsp = .ok r := by
  simp [State.readRsp, hv, hr]

/-- A host read of RSP that answers leaves the state as it is (R21). -/
theorem hostReadRsp_of_ok {s : State} {r : Frame} (h : s.readRsp = .ok r) : hostReadRsp s = .next s := by
  simp [hostReadRsp, h]

/-- A host read of RSP that faults is that fault. -/
theorem hostReadRsp_of_error {s : State} {f : Fault} (h : s.readRsp = .error f) : hostReadRsp s = .fault f := by
  simp [hostReadRsp, h]

/-- Every step completes, except the host's read of an RSP without a value (R27, R213). -/
theorem step_next_or_fault (s : State) :
    (∃ t, step s = .next t) ∨
      ((∃ rest, s.host = .readRsp :: rest) ∧ (s.rspValid = false ∨ s.rsp = none) ∧
        step s = .fault .rspUnwritten) := by
  rcases step_outcome s with ⟨rest, hkeep⟩ | ⟨rest, q, hwrite⟩ | ⟨rest, hclear⟩ | hstop
  · exact .inl ⟨_, hkeep⟩
  · exact .inl ⟨_, hwrite⟩
  · exact .inl ⟨_, hclear⟩
  · exact .inr hstop

/-- Settles O42: a step that faults is the read without a value, and no step has a refusal to give. -/
theorem onlyAnUnwrittenReadStopsTheMachine : Obligations.OnlyAnUnwrittenReadStopsTheMachine := by
  unfold Obligations.OnlyAnUnwrittenReadStopsTheMachine
  constructor
  · intro s f hf
    rcases step_next_or_fault s with ⟨t, hnext⟩ | ⟨hhost, hunwritten, hfault⟩
    · simp [hnext] at hf
    · rw [hfault] at hf
      cases hf
      exact ⟨rfl, hhost, hunwritten⟩
  · intro s r
    rcases step_next_or_fault s with ⟨t, hnext⟩ | ⟨-, -, hfault⟩
    · simp [hnext]
    · simp [hfault]

/-- Settles O1: reset is a cleared state. -/
theorem resetLeavesNoResponse : Obligations.ResetLeavesNoResponse := by
  unfold Obligations.ResetLeavesNoResponse
  exact ⟨rfl, rfl, rfl, readRsp_of_not_valid rfl⟩

/-- Settles O2: RSP_VALID alone decides the fault, and the invariant ties it to RSP's value. -/
theorem readingUnwrittenRspFaults : Obligations.ReadingUnwrittenRspFaults := by
  unfold Obligations.ReadingUnwrittenRspFaults
  refine ⟨fun s hlegal hv => ?_, fun s hv => ⟨readRsp_of_not_valid hv, fun rest => ?_⟩⟩
  · simpa [hv] using rspValid_of_legal hlegal
  · rw [step_act rfl]
    exact hostReadRsp_of_error (readRsp_of_not_valid hv)

/-- Settles O3: the step of a read only takes the action off the host's list. -/
theorem hostReadsHaveNoSideEffect : Obligations.HostReadsHaveNoSideEffect := by
  unfold Obligations.HostReadsHaveNoSideEffect
  refine fun s rest => ⟨fun r hv hr => ⟨readRsp_of_written hv hr, ?_⟩, rfl, ?_⟩
  · rw [step_act rfl]
    exact hostReadRsp_of_ok (readRsp_of_written hv hr)
  · rw [step_act rfl]
    rfl

end Sys2Proof
end

section
/-! PROOFS. Where the response stays (R44): without a request and without a reset, a step does no more than take the
host's action off its list. -/

namespace Sys2Proof

open Sys2Proof.Machine

/-- A step with neither a request nor a reset changes the host's list alone (R25, R44). -/
theorem step_eq_withHost_of_no_request {s t : State} (hsubmit : ∀ q rest, s.host ≠ .submit q :: rest)
    (hreset : ∀ q rest, s.host ≠ .assertReset q :: rest) (ht : step s = .next t) : ∃ rest, t = s.withHost rest := by
  rcases step_cases s with ⟨-, hidle⟩ | ⟨q, rest, hhost, -⟩ | ⟨q, rest, hhost, -⟩ | ⟨rest, -, -, -, hread⟩ |
    ⟨-, -, -, hfault⟩ | ⟨rest, -, hread⟩
  · rw [hidle] at ht
    cases ht
    exact ⟨s.host, rfl⟩
  · exact absurd hhost (hsubmit q rest)
  · exact absurd hhost (hreset q rest)
  · rw [hread] at ht
    cases ht
    exact ⟨rest, rfl⟩
  · simp [hfault] at ht
  · rw [hread] at ht
    cases ht
    exact ⟨rest, rfl⟩

/-- Settles O41: the host's list is no part of the pair, and the idle step leaves even the list. -/
theorem responseStaysUntilTheNextRequest : Obligations.ResponseStaysUntilTheNextRequest := by
  unfold Obligations.ResponseStaysUntilTheNextRequest
  refine ⟨fun s t hsubmit hreset ht => ?_, fun _ => step_idle⟩
  obtain ⟨rest, rfl⟩ := step_eq_withHost_of_no_request hsubmit hreset ht
  exact ⟨s.withHost_rsp rest, s.withHost_rspValid rest⟩

end Sys2Proof
end

section
/-! PROOFS. The decoder and the encoder invert each other (R61 to R71): decoding the operand bytes of a well-formed
operation gives it back, and a frame decodes to a well-formed operation that encodes to the very frame. -/

namespace Sys2Proof

open Sys2Proof.Machine Sys2Proof.Safety

/-- A length field that agrees with its list shows that the list fits, and is its count byte (R70). -/
theorem countFits_and_countByte_of_length {l : List Byte} {n : Byte} (h : l.length = n.toNat) :
    countFits l = true ∧ countByte l = n := by
  refine ⟨?_, by simp [countByte, h]⟩
  have := n.isLt
  simp only [countFits, decide_eq_true_eq]
  omega

/-- The operand bytes of a well-formed operation decode to it, under its own opcode (R62 to R67). -/
theorem decodeOperands_operandBytes {i : Instr} (h : i.wf = true) :
    decodeOperands i.operandBytes i.opcode = .ok i := by
  cases i with
  | crc8 seed d => exact decodeCrc_ok.mpr ⟨seed, _, d, rfl, (countByte_toNat h).symm, rfl⟩
  | crcchk seed d rcv => exact decodeChk_ok.mpr ⟨seed, _, d, rcv, rfl, (countByte_toNat h).symm, rfl⟩
  | uregres cur res => exact decodeB2_ok.mpr ⟨cur, res, rfl, of_decide_eq_true h, rfl⟩
  | ureghtr cur en => exact decodeB2_ok.mpr ⟨cur, en, rfl, of_decide_eq_true h, rfl⟩
  | measrh flags b | meast flags b =>
    obtain ⟨hflags, hfits⟩ := Bool.and_eq_true_iff.mp h
    exact decodeMeas_ok.mpr ⟨flags, _, b, rfl, (countByte_toNat hfits).symm, of_decide_eq_true hflags, rfl⟩
  | snchk a b =>
    obtain ⟨ha, hb⟩ := Bool.and_eq_true_iff.mp h
    exact decodeSn_ok.mpr ⟨_, a, _, b, rfl, (countByte_toNat ha).symm, (countByte_toNat hb).symm, rfl⟩
  | uregdec | htrdec | htrenc | sntype => rfl

/-- Operand bytes that decode under an opcode are those of the operation they decode to, which is well formed and has
that opcode (R69 checks 3 and 4). -/
theorem wf_of_decodeOperands {o : Opcode} {p : Frame} {i : Instr} (h : decodeOperands p o = .ok i) :
    i.wf = true ∧ i.opcode = o ∧ i.operandBytes = p := by
  cases o with
  | crc8 =>
    obtain ⟨seed, n, d, rfl, hd, rfl⟩ := decodeCrc_ok.mp h
    obtain ⟨hfits, rfl⟩ := countFits_and_countByte_of_length hd
    exact ⟨hfits, rfl, rfl⟩
  | crcchk =>
    obtain ⟨seed, n, d, rcv, rfl, hd, rfl⟩ := decodeChk_ok.mp h
    obtain ⟨hfits, rfl⟩ := countFits_and_countByte_of_length hd
    exact ⟨hfits, rfl, rfl⟩
  | uregres | ureghtr =>
    obtain ⟨cur, v, rfl, hv, rfl⟩ := decodeB2_ok.mp h
    exact ⟨decide_eq_true hv, rfl, rfl⟩
  | measrh | meast =>
    obtain ⟨flags, n, b, rfl, hb, hflags, rfl⟩ := decodeMeas_ok.mp h
    obtain ⟨hfits, rfl⟩ := countFits_and_countByte_of_length hb
    exact ⟨Bool.and_eq_true_iff.mpr ⟨decide_eq_true hflags, hfits⟩, rfl, rfl⟩
  | snchk =>
    obtain ⟨nA, a, nB, b, rfl, ha, hb, rfl⟩ := decodeSn_ok.mp h
    obtain ⟨hfitsA, rfl⟩ := countFits_and_countByte_of_length ha
    obtain ⟨hfitsB, rfl⟩ := countFits_and_countByte_of_length hb
    exact ⟨Bool.and_eq_true_iff.mpr ⟨hfitsA, hfitsB⟩, rfl, rfl⟩
  | uregdec | htrdec | htrenc | sntype =>
    obtain ⟨x, rfl, rfl⟩ := decodeB1_ok.mp h
    exact ⟨rfl, rfl, rfl⟩

/-- The decoder accepts exactly the encodings of well-formed operations, each as its own operation. -/
theorem decode_eq_ok_iff {q : Frame} {i : Instr} : decode q = .ok i ↔ i.wf = true ∧ encode i = q := by
  constructor
  · intro h
    obtain ⟨o, p, rfl, hp⟩ := decode_ok h
    obtain ⟨hwf, rfl, rfl⟩ := wf_of_decodeOperands hp
    exact ⟨hwf, rfl⟩
  · rintro ⟨hwf, rfl⟩
    rw [encode, decode_code_cons, decodeOperands_operandBytes hwf]

/-- Settles O8: the operand bytes decode under the operation's own opcode, format by format. -/
theorem decodeEncodeRoundTrip : Obligations.DecodeEncodeRoundTrip := by
  unfold Obligations.DecodeEncodeRoundTrip
  exact fun i hwf => decode_eq_ok_iff.mpr ⟨hwf, rfl⟩

/-- Settles O9: a length field that passes its check is the count byte of its list, so encoding gives the frame back. -/
theorem legalFramesHaveOneMeaning : Obligations.LegalFramesHaveOneMeaning := by
  unfold Obligations.LegalFramesHaveOneMeaning
  exact fun q i h => decode_eq_ok_iff.mp h

end Sys2Proof
end

section
/-! PROOFS. Where an encoded operation's operands stand in its frame (R62 to R67, R70). -/

namespace Sys2Proof

open Sys2Proof.Safety

/-- The frame of a well-formed operation holds its operands where the operation's format says. -/
theorem fieldsOf_encode {i : Instr} (h : i.wf = true) : FieldsOf (encode i) i := by
  cases i with
  | crc8 seed d =>
    have hn : num (encode (.crc8 seed d)) 2 = d.length := countByte_toNat h
    have hlen : (encode (.crc8 seed d)).length = 3 + d.length := Nat.add_comm d.length 3
    rw [FieldsOf, hn]
    exact ⟨rfl, hlen, rfl, rfl⟩
  | crcchk seed d rcv =>
    have hn : num (encode (.crcchk seed d rcv)) 2 = d.length := countByte_toNat h
    rw [FieldsOf, hn, Nat.add_comm 4, Nat.add_comm 3]
    simp [num, encode, Instr.opcode, Opcode.code, Instr.operandBytes]
  | uregres cur res => exact ⟨rfl, of_decide_eq_true h⟩
  | ureghtr cur en => exact ⟨rfl, of_decide_eq_true h⟩
  | measrh flags b | meast flags b =>
    obtain ⟨hflags, hfits⟩ := Bool.and_eq_true_iff.mp h
    have hlen : b.length + 3 = 3 + (countByte b).toNat := by rw [countByte_toNat hfits, Nat.add_comm]
    exact ⟨rfl, hlen, rfl, of_decide_eq_true hflags, rfl⟩
  | snchk a b =>
    obtain ⟨hfitsA, hfitsB⟩ := Bool.and_eq_true_iff.mp h
    have hnA : num (encode (.snchk a b)) 1 = a.length := countByte_toNat hfitsA
    have hnB : num (encode (.snchk a b)) (2 + a.length) = b.length := by
      simpa [num, encode, Instr.operandBytes, Nat.add_comm 2] using countByte_toNat hfitsB
    have hlen : (encode (.snchk a b)).length = 3 + a.length + b.length := by
      simp only [encode, Instr.operandBytes, List.length_cons, List.length_append]
      omega
    rw [FieldsOf, hnA, hnB, hlen, Nat.add_comm 3]
    simp [num, encode, Instr.opcode, Opcode.code, Instr.operandBytes]
  | uregdec | htrdec | htrenc | sntype => rfl

/-- Settles O7: a frame that decodes is the encoding of its operation. -/
theorem decodedOperandsAreTheFieldsOfTheFrame : Obligations.DecodedOperandsAreTheFieldsOfTheFrame := by
  unfold Obligations.DecodedOperandsAreTheFieldsOfTheFrame
  intro q i h
  obtain ⟨hwf, rfl⟩ := decode_eq_ok_iff.mp h
  exact fieldsOf_encode hwf

end Sys2Proof
end

section
/-! PROOFS. The legal requests are the frames that decode (R69), and every other frame is answered [03] (R71). -/

namespace Sys2Proof

open Sys2Proof.Machine Sys2Proof.Safety

/-- The bytes that stand for no opcode (R61, R71). -/
theorem ofByte_eq_none_iff {b : Byte} : Opcode.ofByte b = none ↔ b = 0x00 ∨ 0x0C ≤ b.toNat := by
  revert b
  decide

/-- A byte of a frame, counted from after the first. -/
theorem num_cons_two_add (b : Byte) (p : Frame) (k : Nat) : num (b :: p) (2 + k) = num p (1 + k) := by
  rw [Nat.add_comm 2, Nat.add_comm 1]
  rfl

/-- The bytes that decode in format F-CRC, by their length (R62). -/
theorem exists_decodeCrc_ok {p : Frame} :
    (∃ i, decodeCrc p = .ok i) ↔ 2 ≤ p.length ∧ p.length = 2 + num p 1 := by
  simp only [decodeCrc_ok]
  match p with
  | [] | [_] => simp
  | seed :: n :: d => simp [num]; omega

/-- The bytes that decode in format F-CHK, by their length (R63). -/
theorem exists_decodeChk_ok {p : Frame} :
    (∃ i, decodeChk p = .ok i) ↔ 2 ≤ p.length ∧ p.length = 3 + num p 1 := by
  simp only [decodeChk_ok]
  match p with
  | [] | [_] => simp
  | seed :: n :: d =>
    rcases d.eq_nil_or_concat with rfl | ⟨d, rcv, rfl⟩
    · simp [num]
      omega
    · simp [num]
      omega

/-- The bytes that decode in format F-B1 (R64). -/
theorem exists_decodeB1_ok {mk : Byte → Instr} {p : Frame} : (∃ i, decodeB1 mk p = .ok i) ↔ p.length = 1 := by
  simp [decodeB1_ok, List.length_eq_one_iff]

/-- The bytes that decode in format F-B2, by their length and their second operand (R65, R71). -/
theorem exists_decodeB2_ok {mk : Byte → Byte → Instr} {top : Byte} {p : Frame} :
    (∃ i, decodeB2 mk top p = .ok i) ↔ p.length = 2 ∧ num p 1 ≤ top.toNat := by
  simp only [decodeB2_ok]
  match p with
  | [] | [_] | _ :: _ :: _ :: _ => simp
  | [cur, v] => simp [num, BitVec.le_def]

/-- The bytes that decode in format F-MEAS, by their length and their flags (R66, R71). -/
theorem exists_decodeMeas_ok {mk : Byte → List Byte → Instr} {p : Frame} :
    (∃ i, decodeMeas mk p = .ok i) ↔ (2 ≤ p.length ∧ p.length = 2 + num p 1) ∧ num p 0 ≤ 1 := by
  simp only [decodeMeas_ok]
  match p with
  | [] | [_] => simp
  | flags :: n :: b => simp [num, BitVec.le_def]; omega

/-- The bytes that decode in format F-SN, by their length (R67). -/
theorem exists_decodeSn_ok {p : Frame} :
    (∃ i, decodeSn p = .ok i) ↔
      (1 ≤ p.length ∧ 2 + num p 0 ≤ p.length) ∧ p.length = 2 + num p 0 + num p (1 + num p 0) := by
  constructor
  · rintro ⟨i, h⟩
    obtain ⟨nA, a, nB, b, rfl, ha, hb, -⟩ := decodeSn_ok.mp h
    simp [num, Nat.add_comm 1, ← ha, ← hb]
    omega
  · match p with
    | [] => simp
    | nA :: p =>
      rintro ⟨⟨-, hlong⟩, hlen⟩
      have hlt : nA.toNat < p.length := by
        simp [num] at hlong
        omega
      refine ⟨_, decodeSn_ok.mpr ⟨nA, p.take nA.toNat, p[nA.toNat], p.drop (nA.toNat + 1), ?_, ?_, ?_, rfl⟩⟩
      · simp
      · simp; omega
      · simp [num, Nat.add_comm 1, hlt] at hlen ⊢
        omega

/-- R69's pseudocode for a frame that starts with an opcode: its branch is the check of that opcode's format. -/
theorem legalRequest_code_cons (o : Opcode) (p : Frame) :
    legalRequest (o.code :: p) = true ↔ ∃ i, decodeOperands p o = .ok i := by
  cases o with
  | crc8 =>
    simp only [decodeOperands, exists_decodeCrc_ok]
    simp [legalRequest, num, Opcode.code]
    omega
  | crcchk =>
    simp only [decodeOperands, exists_decodeChk_ok]
    simp [legalRequest, num, Opcode.code]
    omega
  | uregres | ureghtr =>
    simp only [decodeOperands, exists_decodeB2_ok]
    simp [legalRequest, num, Opcode.code]
  | measrh | meast =>
    simp only [decodeOperands, exists_decodeMeas_ok]
    simp [legalRequest, num, Opcode.code]
    omega
  | snchk =>
    have hcount := num_cons_two_add Opcode.snchk.code p (num p 0)
    simp only [decodeOperands, exists_decodeSn_ok]
    simp [legalRequest, num, Opcode.code] at hcount ⊢
    omega
  | uregdec | htrdec | htrenc | sntype =>
    simp only [decodeOperands, exists_decodeB1_ok]
    simp [legalRequest, num, Opcode.code]

/-- R69's pseudocode accepts no frame whose first byte stands for no opcode (R71). -/
theorem legalRequest_cons_of_ofByte_none {b : Byte} (p : Frame) (h : Opcode.ofByte b = none) :
    legalRequest (b :: p) = false := by
  have hne : ∀ k, 1 ≤ k → k ≤ 0x0B → num (b :: p) 0 ≠ k := by
    have hb : num (b :: p) 0 = 0 ∨ 0x0C ≤ num (b :: p) 0 := (ofByte_eq_none_iff.mp h).imp_left (congrArg BitVec.toNat)
    omega
  simp [legalRequest, hne]

/-- The frames that decode are those of R69's pseudocode. -/
theorem legalRequest_iff_decode {q : Frame} : legalRequest q = true ↔ ∃ i, decode q = .ok i := by
  cases q with
  | nil => simp [legalRequest, decode]
  | cons b p =>
    cases ho : Opcode.ofByte b with
    | none => simp [legalRequest_cons_of_ofByte_none p ho, decode, ho]
    | some o => rw [← Opcode.code_of_ofByte ho, legalRequest_code_cons, decode_code_cons]

/-- A frame outside R69's pseudocode is refused by the decoder. -/
theorem decode_error_of_not_legalRequest {q : Frame} (h : legalRequest q = false) : ∃ why, decode q = .error why := by
  cases hq : decode q with
  | ok i => simp [legalRequest_iff_decode.mpr ⟨i, hq⟩] at h
  | error why => exact ⟨why, rfl⟩

/-- A frame outside R69's pseudocode is answered ILLEGAL_REQUEST from every state, and nothing else changes (R71). -/
theorem responds_illegal_of_not_legalRequest {q : Frame} (h : legalRequest q = false) : Responds q [0x03] := by
  obtain ⟨why, hq⟩ := decode_error_of_not_legalRequest h
  have hresponse : frameResponse q = [0x03] := by rw [frameResponse, hq]
  rw [← hresponse]
  exact responds_frameResponse q

/-- Settles O6: each illegal frame of R71 fails a check of R69's pseudocode. -/
theorem illegalFramesGetIllegalRequest : Obligations.IllegalFramesGetIllegalRequest := by
  unfold Obligations.IllegalFramesGetIllegalRequest
  refine ⟨fun q => legalRequest_iff_decode.mp,
    fun q h => ⟨decode_error_of_not_legalRequest h, responds_illegal_of_not_legalRequest h⟩,
    fun op p h => responds_illegal_of_not_legalRequest ?_, fun cur v h => responds_illegal_of_not_legalRequest ?_,
    fun cur v h => responds_illegal_of_not_legalRequest ?_,
    fun op flags p hop h => responds_illegal_of_not_legalRequest ?_⟩
  · exact legalRequest_cons_of_ofByte_none p (ofByte_eq_none_iff.mpr h)
  · simpa [legalRequest, num] using h
  · simpa [legalRequest, num] using h
  · rcases hop with rfl | rfl <;> simp [legalRequest, num, h]

end Sys2Proof
end

section
/-! PROOFS. What an operation answers through the port and under which status: a step that submits its frame runs exec,
and the response has a status of R211 and the length of R68's table. -/

namespace Sys2Proof

open Sys2Proof.Machine Sys2Proof.Safety

/-- Serving a frame that decodes is exec of its operation (R60). -/
theorem serve_of_decode {q : Frame} {i : Instr} (h : decode q = .ok i) (s : State) : serve q s = exec i s := by
  simp only [serve, h]

/-- Settles O5: the step serves the frame in the state whose host list has moved on. -/
theorem stepRunsTheDecodedOperation : Obligations.StepRunsTheDecodedOperation := by
  unfold Obligations.StepRunsTheDecodedOperation
  intro s q i rest hhost hq
  rw [step_act hhost, hostAct, serve_of_decode hq]
  rfl

/-- The response to a measurement has one of three statuses and seven bytes (R68). -/
theorem measResponse_status (conv : Half → Int) (c : MeasCheck) :
    ∃ (st : Status) (body : Frame), st ≠ .illegalRequest ∧ measResponse conv c = st.code :: body ∧ body.length = 6 := by
  cases c with
  | malformed => exact ⟨.malformedResponse, _, by decide, rfl, rfl⟩
  | mismatch p => exact ⟨.checksumMismatch, _, by decide, rfl, rfl⟩
  | good hi lo p => exact ⟨.ok, _, by decide, rfl, rfl⟩

/-- The response to the ID replies has one of three statuses and twenty-three bytes (R68). -/
theorem snchkResponse_status (o : Option IdReply) :
    ∃ (st : Status) (body : Frame), st ≠ .illegalRequest ∧ snchkResponse o = st.code :: body ∧ body.length = 22 := by
  cases o with
  | none => exact ⟨.malformedResponse, _, by decide, rfl, rfl⟩
  | some r =>
    by_cases hmask : mismatchMask 0 (chainPairs r) = 0
    · exact ⟨.ok, _, by decide, by rw [snchkResponse, if_pos hmask]; rfl, rfl⟩
    · exact ⟨.checksumMismatch, _, by decide, by rw [snchkResponse, if_neg hmask]; rfl, rfl⟩

/-- The three operations that read a reply have one response length under every status they produce (R68). -/
theorem responseLength_of_reply {st : Status} (h : st ≠ .illegalRequest) :
    responseLength .measrh st = some 7 ∧ responseLength .meast st = some 7 ∧ responseLength .snchk st = some 23 := by
  cases st with
  | illegalRequest => exact absurd rfl h
  | ok | checksumMismatch | malformedResponse => exact ⟨rfl, rfl, rfl⟩

/-- Every operation's response has a status and a length of the table (R68, R211). -/
theorem response_status (i : Instr) :
    ∃ (st : Status) (body : Frame), st ≠ .illegalRequest ∧ i.response = st.code :: body
      ∧ responseLength i.opcode st = some (body.length + 1) := by
  cases i with
  | crcchk seed data rcv =>
    by_cases h : crc8 seed data = rcv
    · exact ⟨.ok, _, by decide, by rw [Instr.response, if_pos h]; rfl, rfl⟩
    · exact ⟨.checksumMismatch, _, by decide, by rw [Instr.response, if_neg h]; rfl, rfl⟩
  | measrh flags b =>
    obtain ⟨st, body, hst, hresponse, hlen⟩ := measResponse_status rhCenti (measureCheck (expectCrc flags) b)
    obtain ⟨hlength, -, -⟩ := responseLength_of_reply hst
    exact ⟨st, body, hst, hresponse, hlen ▸ hlength⟩
  | meast flags b =>
    obtain ⟨st, body, hst, hresponse, hlen⟩ := measResponse_status tCenti (measureCheck (expectCrc flags) b)
    obtain ⟨-, hlength, -⟩ := responseLength_of_reply hst
    exact ⟨st, body, hst, hresponse, hlen ▸ hlength⟩
  | snchk a b =>
    obtain ⟨st, body, hst, hresponse, hlen⟩ := snchkResponse_status (readReply a b)
    obtain ⟨-, -, hlength⟩ := responseLength_of_reply hst
    exact ⟨st, body, hst, hresponse, hlen ▸ hlength⟩
  | crc8 | uregdec | uregres | ureghtr | htrdec | htrenc | sntype => exact ⟨.ok, _, by decide, rfl, rfl⟩

/-- Settles O36: the response of an operation carries its status first. -/
theorem statusesAndLengthsFollowTheTable : Obligations.StatusesAndLengthsFollowTheTable := by
  unfold Obligations.StatusesAndLengthsFollowTheTable
  intro i _
  obtain ⟨st, body, hst, hresponse, hlen⟩ := response_status i
  exact ⟨st, body, hst, hresponse ▸ completes_response i, hlen⟩

end Sys2Proof
end

section
/-! PROOFS. What a run of requests shows (R253), and the chain of one-byte CRC8 requests (R74, R104). -/

namespace Sys2Proof

open Sys2Proof.Machine Sys2Proof.Safety

/-- The first response of a run is that of its first request, and the run goes on from the state the request leaves. -/
theorem observation_cons (q : Frame) (p : List Frame) (s : State) :
    observation (q :: p) s = frameResponse q :: observation p (s.writeRsp (frameResponse q)) := by
  have hstep : step { s with host := .submit q :: p.map .submit } =
      .next ((s.withHost (p.map .submit)).writeRsp (frameResponse q)) := responds_frameResponse q s _
  simp only [observation, List.map_cons, List.length_cons, responsesOf, hstep]
  rfl

/-- A run shows the response of each request, in order, from any state (R253). -/
theorem observation_eq_map_frameResponse (p : List Frame) (s : State) : observation p s = p.map frameResponse := by
  induction p generalizing s with
  | nil => rfl
  | cons q p ih => rw [observation_cons, ih, List.map_cons]

/-- The response to the frame of a well-formed operation is the operation's. -/
theorem frameResponse_encode {i : Instr} (h : i.wf = true) : frameResponse (encode i) = i.response := by
  rw [frameResponse, decode_eq_ok_iff.mpr ⟨h, rfl⟩]

/-- The response to a request of crcchain is the CRC of its one byte. -/
theorem frameResponse_crc8_singleton (seed d : Byte) :
    frameResponse (encode (.crc8 seed [d])) = [0x00, crc8 seed [d]] := frameResponse_encode rfl

/-- crcchain goes on with the CRC of its first byte as the seed (R74). -/
theorem crcchainRequests_cons (seed d : Byte) (ds : List Byte) (s : State) :
    crcchainRequests seed (d :: ds) s
      = encode (.crc8 seed [d]) :: crcchainRequests (crc8 seed [d]) ds (s.writeRsp [0x00, crc8 seed [d]]) := by
  simp only [crcchainRequests, serve_eq_writeRsp, frameResponse_crc8_singleton, State.readRsp_writeRsp]

/-- The responses to the requests of crcchain are the CRCs of the growing prefixes. -/
theorem map_frameResponse_crcchainRequests (seed : Byte) (d : List Byte) (s : State) :
    (crcchainRequests seed d s).map frameResponse
      = (List.range d.length).map (fun k => [0x00, crc8 seed (d.take (k + 1))]) := by
  induction d generalizing seed s with
  | nil => rfl
  | cons d ds ih =>
    rw [crcchainRequests_cons, List.map_cons, frameResponse_crc8_singleton, ih, List.length_cons,
      List.range_succ_eq_map, List.map_cons, List.map_map]
    rfl

/-- Settles O44: a run shows its requests' responses, and the state in which the host made the requests is immaterial. -/
theorem crcchainComputesTheWholeCrc : Obligations.CrcchainComputesTheWholeCrc := by
  unfold Obligations.CrcchainComputesTheWholeCrc
  intro seed d s t
  rw [observation_eq_map_frameResponse, map_frameResponse_crcchainRequests]

end Sys2Proof
end

section
/-! PROOFS. The assembler accepts exactly the statements that write out a well-formed operation, cvtrh and cvtt by what
they stand for (R73, R74); so what it accepts decodes, and what is out of range it rejects. -/

namespace Sys2Proof

open Sys2Proof.Machine Sys2Proof.Safety

/-- A step of the assembler passes on only what it accepted. -/
theorem asm_bind_eq_ok {α β : Type} {e : Except AsmError α} {f : α → Except AsmError β} {b : β} :
    e >>= f = .ok b ↔ ∃ a, e = .ok a ∧ f a = .ok b := by
  cases e <;> simp [bind, Except.bind]

/-- The last step of the assembler accepts its value. -/
theorem asm_pure_eq_ok {α : Type} {a b : α} : (pure a : Except AsmError α) = .ok b ↔ a = b := by
  simp [pure, Except.pure]

/-- A number is accepted as the byte of its value. -/
theorem asmByte_eq_ok {n : Nat} {b : Byte} : asmByte n = .ok b ↔ n = b.toNat := by
  have hb := b.isLt
  unfold asmByte
  split
  · simp only [Except.ok.injEq, ← BitVec.toNat_inj, BitVec.toNat_ofNat]
    omega
  · simp only [reduceCtorEq, false_iff]
    omega

/-- A number above 255 is rejected as one. -/
theorem asmByte_of_gt {n : Nat} (h : 255 < n) : asmByte n = .error .byteRange := if_neg (by omega)

/-- A number with a bound of its own is accepted up to the bound. -/
theorem asmField_eq_ok {top n : Nat} {b : Byte} (htop : top < 256) :
    asmField top n = .ok b ↔ b.toNat ≤ top ∧ n = b.toNat := by
  unfold asmField
  split
  · simp only [Except.ok.injEq, ← BitVec.toNat_inj, BitVec.toNat_ofNat]
    omega
  · split <;> simp only [reduceCtorEq, false_iff] <;> omega

/-- The numbers of a list are read one after the other. -/
theorem asmBytes_cons (n : Nat) (ns : List Nat) :
    asmBytes (n :: ns) = asmByte n >>= fun b => asmBytes ns >>= fun bs => .ok (b :: bs) := by
  rw [asmBytes]
  cases asmByte n <;> cases asmBytes ns <;> rfl

/-- The numbers of a list are accepted as the bytes of their values. -/
theorem asmBytes_eq_ok {ns : List Nat} {l : List Byte} : asmBytes ns = .ok l ↔ ns = l.map BitVec.toNat := by
  induction ns generalizing l with
  | nil => cases l <;> simp [asmBytes]
  | cons n ns ih =>
    simp only [asmBytes_cons, asm_bind_eq_ok, asmByte_eq_ok, ih, Except.ok.injEq]
    constructor
    · rintro ⟨b, rfl, bs, rfl, rfl⟩
      rfl
    · intro h
      obtain ⟨b, bs, rfl, rfl, rfl⟩ := List.map_eq_cons_iff.mp h.symm
      exact ⟨b, rfl, bs, rfl, rfl⟩

/-- A list is accepted when its count fits a byte and its numbers do (log 12). -/
theorem asmList_eq_ok {ns : List Nat} {l : List Byte} :
    asmList ns = .ok l ↔ countFits l = true ∧ ns = l.map BitVec.toNat := by
  unfold asmList
  split
  · rename_i hlen
    rw [asmBytes_eq_ok]
    refine ⟨?_, And.right⟩
    rintro rfl
    exact ⟨by simpa [countFits] using hlen, rfl⟩
  · rename_i hlen
    simp only [reduceCtorEq, false_iff]
    rintro ⟨hfits, rfl⟩
    exact hlen (by simpa [countFits] using hfits)

/-- The .crc suffix is read back from its byte. -/
theorem crcFlag_beq_one (crc : Bool) : (crcFlag crc == 1) = crc := by cases crc <;> rfl

/-- The byte of the .crc suffix is a flags byte (R66). -/
theorem crcFlag_le_one (crc : Bool) : crcFlag crc ≤ 1 := by cases crc <;> decide

/-- A flags byte is that of its .crc suffix (R66). -/
theorem crcFlag_of_le_one {flags : Byte} (h : flags ≤ 1) : crcFlag (flags == 1) = flags := by
  revert flags
  decide

/-- The statement that writes out an operation (R73). -/
def Instr.stmt : Instr → AsmStmt
  | .crc8 seed d => .crc8 seed.toNat (d.map BitVec.toNat)
  | .crcchk seed d rcv => .crcchk seed.toNat (d.map BitVec.toNat) rcv.toNat
  | .uregdec u => .uregdec u.toNat
  | .uregres cur res => .uregres cur.toNat res.toNat
  | .ureghtr cur en => .ureghtr cur.toNat en.toNat
  | .htrdec h => .htrdec h.toNat
  | .htrenc level => .htrenc level.toNat
  | .measrh flags b => .measrh (flags == 1) (b.map BitVec.toNat)
  | .meast flags b => .meast (flags == 1) (b.map BitVec.toNat)
  | .snchk a b => .snchk (a.map BitVec.toNat) (b.map BitVec.toNat)
  | .sntype x => .sntype x.toNat

/-- A statement with an operation writes it out, and the operation is well formed. -/
theorem wf_and_expand_of_toInstr {st : AsmStmt} {i : Instr} (h : st.toInstr = .ok i) :
    i.wf = true ∧ st.expand = i.stmt := by
  unfold AsmStmt.toInstr at h
  cases he : st.expand
  all_goals
    simp only [he, asm_bind_eq_ok, asm_pure_eq_ok, asmByte_eq_ok, asmList_eq_ok, asmField_eq_ok (by decide : 3 < 256),
      asmField_eq_ok (by decide : 1 < 256), reduceCtorEq] at h
  case crc8 =>
    obtain ⟨seed, rfl, d, ⟨hd, rfl⟩, rfl⟩ := h
    exact ⟨hd, rfl⟩
  case crcchk =>
    obtain ⟨seed, rfl, d, ⟨hd, rfl⟩, rcv, rfl, rfl⟩ := h
    exact ⟨hd, rfl⟩
  case uregres | ureghtr =>
    obtain ⟨cur, rfl, v, ⟨hv, rfl⟩, rfl⟩ := h
    exact ⟨decide_eq_true hv, rfl⟩
  case measrh crc _ | meast crc _ =>
    obtain ⟨b, ⟨hb, rfl⟩, rfl⟩ := h
    exact ⟨Bool.and_eq_true_iff.mpr ⟨decide_eq_true (crcFlag_le_one crc), hb⟩, by rw [Instr.stmt, crcFlag_beq_one]⟩
  case snchk =>
    obtain ⟨a, ⟨ha, rfl⟩, b, ⟨hb, rfl⟩, rfl⟩ := h
    exact ⟨Bool.and_eq_true_iff.mpr ⟨ha, hb⟩, rfl⟩
  case uregdec | htrdec | htrenc | sntype =>
    obtain ⟨x, rfl, rfl⟩ := h
    exact ⟨rfl, rfl⟩

/-- The statement that writes out a well-formed operation has that operation. -/
theorem toInstr_stmt {i : Instr} (h : i.wf = true) : i.stmt.toInstr = .ok i := by
  cases i
  all_goals
    simp only [AsmStmt.toInstr, Instr.stmt, AsmStmt.expand, asm_bind_eq_ok, asm_pure_eq_ok, asmByte_eq_ok, asmList_eq_ok,
      asmField_eq_ok (by decide : 3 < 256), asmField_eq_ok (by decide : 1 < 256)]
  case crc8 seed d => exact ⟨seed, rfl, d, ⟨h, rfl⟩, rfl⟩
  case crcchk seed d rcv => exact ⟨seed, rfl, d, ⟨h, rfl⟩, rcv, rfl, rfl⟩
  case uregres cur v | ureghtr cur v => exact ⟨cur, rfl, v, ⟨of_decide_eq_true h, rfl⟩, rfl⟩
  case measrh flags b | meast flags b =>
    obtain ⟨hflags, hb⟩ := Bool.and_eq_true_iff.mp h
    exact ⟨b, ⟨hb, rfl⟩, by rw [crcFlag_of_le_one (of_decide_eq_true hflags)]⟩
  case snchk a b =>
    obtain ⟨ha, hb⟩ := Bool.and_eq_true_iff.mp h
    exact ⟨a, ⟨ha, rfl⟩, b, ⟨hb, rfl⟩, rfl⟩
  case uregdec x | htrdec x | htrenc x | sntype x => exact ⟨x, rfl, rfl⟩

/-- The assembler's frame is the encoding of the statement's operation. -/
theorem assemble_eq_ok {st : AsmStmt} {q : Frame} :
    st.assemble = .ok q ↔ ∃ i, st.toInstr = .ok i ∧ encode i = q := by
  unfold AsmStmt.assemble
  cases st.toInstr <;> simp

/-- The statement that writes out a well-formed operation assembles to the operation's frame. -/
theorem assemble_stmt {i : Instr} (h : i.wf = true) : i.stmt.assemble = .ok (encode i) :=
  assemble_eq_ok.mpr ⟨i, toInstr_stmt h, rfl⟩

/-- Settles O43: the frame is the encoding of the statement's operation, which is well formed. -/
theorem assembledStatementsDecode : Obligations.AssembledStatementsDecode := by
  unfold Obligations.AssembledStatementsDecode
  intro st q h
  obtain ⟨i, hi, rfl⟩ := assemble_eq_ok.mp h
  obtain ⟨hwf, -⟩ := wf_and_expand_of_toInstr hi
  exact ⟨i, hi, hwf, decode_eq_ok_iff.mpr ⟨hwf, rfl⟩⟩

end Sys2Proof
end

section
/-! PROOFS. The rows of the assembler's table and its rejections (R73, R74). -/

namespace Sys2Proof

open Sys2Proof.Machine Sys2Proof.Safety

/-- The numbers of a statement are in the ranges of R73's table. -/
def Machine.AsmStmt.InRange : AsmStmt → Prop
  | .crc8 seed d => seed < 256 ∧ ∀ n ∈ d, n < 256
  | .crcchk seed d rcv => seed < 256 ∧ (∀ n ∈ d, n < 256) ∧ rcv < 256
  | .uregdec x | .htrdec x | .htrenc x | .sntype x => x < 256
  | .uregres cur res => cur < 256 ∧ res ≤ 3
  | .ureghtr cur en => cur < 256 ∧ en ≤ 1
  | .measrh _ b | .meast _ b => ∀ n ∈ b, n < 256
  | .snchk a b => (∀ n ∈ a, n < 256) ∧ ∀ n ∈ b, n < 256
  | .cvtrh r16 | .cvtt r16 => r16 < 65536

/-- The numbers of a byte list are below 256. -/
theorem lt_of_mem_map_toNat (d : List Byte) : ∀ n ∈ d.map BitVec.toNat, n < 256 := by
  intro n hn
  obtain ⟨b, -, rfl⟩ := List.mem_map.mp hn
  exact b.isLt

/-- What writes out a well-formed operation is in range. -/
theorem inRange_stmt {i : Instr} (h : i.wf = true) : i.stmt.InRange := by
  cases i with
  | crc8 seed d => exact ⟨seed.isLt, lt_of_mem_map_toNat d⟩
  | crcchk seed d rcv => exact ⟨seed.isLt, lt_of_mem_map_toNat d, rcv.isLt⟩
  | uregres cur v | ureghtr cur v => exact ⟨cur.isLt, of_decide_eq_true h⟩
  | measrh flags b | meast flags b => exact lt_of_mem_map_toNat b
  | snchk a b => exact ⟨lt_of_mem_map_toNat a, lt_of_mem_map_toNat b⟩
  | uregdec x | htrdec x | htrenc x | sntype x => exact x.isLt

/-- A statement that does not stand for one in range is rejected. -/
theorem rejected_of_not_inRange {st : AsmStmt} (h : ¬ st.expand.InRange) : ∃ why, st.assemble = .error why := by
  cases hq : st.assemble with
  | error why => exact ⟨why, rfl⟩
  | ok q =>
    obtain ⟨i, hi, -⟩ := assemble_eq_ok.mp hq
    obtain ⟨hwf, he⟩ := wf_and_expand_of_toInstr hi
    exact absurd (he ▸ inRange_stmt hwf) h

/-- A list with a number above 255 is not one of bytes. -/
theorem not_forall_lt {d : List Nat} (h : ∃ n ∈ d, 255 < n) : ¬ ∀ n ∈ d, n < 256 := by
  obtain ⟨n, hn, hgt⟩ := h
  exact fun hd => absurd (hd n hn) (by omega)

/-- The high and the low byte of a 16-bit value (R41). -/
theorem high_and_low_byte (hi lo : Byte) :
    (hi.toNat * 256 + lo.toNat) / 256 = hi.toNat ∧ (hi.toNat * 256 + lo.toNat) % 256 = lo.toNat := by
  have := lo.isLt
  omega

/-- cvtrh and cvtt assemble as a measurement without a CRC of the value's two bytes (R74). -/
theorem assemble_cvtrh (hi lo : Byte) :
    (AsmStmt.cvtrh (hi.toNat * 256 + lo.toNat)).assemble = .ok (encode (.measrh 0 [hi, lo]))
      ∧ (AsmStmt.cvtt (hi.toNat * 256 + lo.toNat)).assemble = .ok (encode (.meast 0 [hi, lo])) := by
  obtain ⟨hhigh, hlow⟩ := high_and_low_byte hi lo
  have hrh := assemble_stmt (i := .measrh 0 [hi, lo]) rfl
  have ht := assemble_stmt (i := .meast 0 [hi, lo]) rfl
  simp only [AsmStmt.assemble, AsmStmt.toInstr, AsmStmt.expand, Instr.stmt, List.map_cons, List.map_nil, hhigh, hlow]
    at hrh ht ⊢
  exact ⟨hrh, ht⟩

/-- The statements of one byte reject a number above 255 as such (R73). -/
theorem one_byte_statements_reject {n : Nat} (h : 255 < n) :
    (AsmStmt.uregdec n).assemble = .error .byteRange ∧ (AsmStmt.htrdec n).assemble = .error .byteRange
      ∧ (AsmStmt.htrenc n).assemble = .error .byteRange ∧ (AsmStmt.sntype n).assemble = .error .byteRange := by
  simp [AsmStmt.assemble, AsmStmt.toInstr, AsmStmt.expand, asmByte_of_gt h, bind, Except.bind]

/-- Settles O46: each row writes out a well-formed operation, and no rejected statement does. -/
theorem assemblerFollowsTheTable : Obligations.AssemblerFollowsTheTable := by
  unfold Obligations.AssemblerFollowsTheTable
  refine ⟨fun x y d hd => ?_, fun x => ?_, fun cur v => ?_, assemble_cvtrh, by decide, fun n hn => ?_, fun d x h => ?_,
    fun d e x y crc => ?_, fun cur v => ?_⟩
  · have hfits : countFits d = true := decide_eq_true hd
    refine ⟨assemble_stmt (i := .crc8 x d) hfits, assemble_stmt (i := .crcchk x d y) hfits,
      assemble_stmt (i := .measrh 0 d) hfits, assemble_stmt (i := .measrh 1 d) hfits,
      assemble_stmt (i := .meast 0 d) hfits, assemble_stmt (i := .meast 1 d) hfits, fun e he => ?_⟩
    exact assemble_stmt (i := .snchk d e) (Bool.and_eq_true_iff.mpr ⟨hfits, decide_eq_true he⟩)
  · exact ⟨assemble_stmt (i := .uregdec x) rfl, assemble_stmt (i := .htrdec x) rfl, assemble_stmt (i := .htrenc x) rfl,
      assemble_stmt (i := .sntype x) rfl⟩
  · exact ⟨fun h => assemble_stmt (i := .uregres cur v) (decide_eq_true h),
      fun h => assemble_stmt (i := .ureghtr cur v) (decide_eq_true h)⟩
  · obtain ⟨hureg, hhtrdec, hhtrenc, hsntype⟩ := one_byte_statements_reject hn
    refine ⟨hureg, hhtrdec, hhtrenc, hsntype, fun v => ⟨rejected_of_not_inRange ?_, rejected_of_not_inRange ?_⟩⟩
    all_goals exact fun ⟨hcur, _⟩ => absurd hcur (by omega)
  · have hnot : ¬ (x < 256 ∧ ∀ n ∈ d, n < 256) := fun ⟨hx, hd⟩ => h.elim (by omega) (fun hmem => not_forall_lt hmem hd)
    exact ⟨rejected_of_not_inRange hnot,
      fun y => rejected_of_not_inRange fun ⟨hx, hd, _⟩ => hnot ⟨hx, hd⟩⟩
  · refine ⟨fun hy => rejected_of_not_inRange fun ⟨_, _, hlt⟩ => absurd hlt (by omega), fun h => ?_⟩
    have hd := not_forall_lt h
    exact ⟨rejected_of_not_inRange hd, rejected_of_not_inRange hd, rejected_of_not_inRange fun ⟨ha, _⟩ => hd ha,
      rejected_of_not_inRange fun ⟨_, hb⟩ => hd hb⟩
  · exact ⟨fun h => rejected_of_not_inRange fun ⟨_, hv⟩ => absurd hv (by omega),
      fun h => rejected_of_not_inRange fun ⟨_, hv⟩ => absurd hv (by omega)⟩

end Sys2Proof
end

section
/-! PROOFS. The CRC function (R100, R104, R105): one shift of the register in numbers and over GF(2), the repeated shift,
one byte, and a whole sequence. -/

namespace Sys2Proof

open Sys2Proof.Machine Sys2Proof.Safety

/-- The bit the shift looks at is set from 128 on. -/
theorem getLsbD_seven (c : Byte) : c.getLsbD 7 = decide (128 ≤ c.toNat) := by
  rw [← BitVec.msb_eq_getLsbD_last c, BitVec.msb_eq_decide]

/-- A shift of the register with its high bit set, as a number. -/
theorem toNat_crcShift_of_ge {c : Byte} (h : 128 ≤ c.toNat) : (crcShift c).toNat = c.toNat * 2 % 256 ^^^ 0x31 := by
  rw [crcShift, getLsbD_seven, if_pos (decide_eq_true h), BitVec.toNat_xor, BitVec.toNat_shiftLeft, Nat.shiftLeft_eq]
  rfl

/-- A shift of the register with its high bit clear doubles it. -/
theorem toNat_crcShift_of_lt {c : Byte} (h : c.toNat < 128) : (crcShift c).toNat = c.toNat * 2 := by
  rw [crcShift, getLsbD_seven, if_neg (by simpa using h), BitVec.toNat_shiftLeft, Nat.shiftLeft_eq]
  omega

/-- One shift of the register is one round of R100's inner loop on numbers. -/
theorem toNat_crcShift (c : Byte) : (crcShift c).toNat = crcRoundNat c.toNat := by
  have hmask (n : ℕ) : n &&& 0xFF = n % 2 ^ 8 := Nat.and_two_pow_sub_one_eq_mod n 8
  rw [crcRoundNat]
  split
  next h => rw [toNat_crcShift_of_ge h, hmask, Nat.xor_mod_two_pow]
  next h =>
    rw [toNat_crcShift_of_lt (by omega), hmask]
    omega

/-- The repeated shift is R100's inner loop on numbers. -/
theorem toNat_crcShifts (k : ℕ) (c : Byte) : (crcShifts k c).toNat = crcRoundsNat k c.toNat := by
  induction k generalizing c with
  | zero => rfl
  | succ k ih => rw [crcShifts, ih, toNat_crcShift, crcRoundsNat]

/-- One byte into the register is one pass of R100's outer loop on numbers. -/
theorem toNat_crcByte (c d : Byte) : (crcByte c d).toNat = crcRoundsNat 8 (c.toNat ^^^ d.toNat) := by
  rw [crcByte, toNat_crcShifts, BitVec.toNat_xor]

/-- Settles O22, by induction on the data. -/
theorem crcFollowsThePseudocode : Obligations.CrcFollowsThePseudocode := by
  unfold Obligations.CrcFollowsThePseudocode
  intro seed data
  induction data generalizing seed with
  | nil => rfl
  | cons d ds ih =>
    rw [crc8_cons, ih, toNat_crcByte]
    rfl

/-- The CRC of a concatenation continues from that of its first part (R104). -/
theorem crc8_append (s : Byte) (a b : List Byte) : crc8 s (a ++ b) = crc8 (crc8 s a) b := by
  induction a generalizing s with
  | nil => rfl
  | cons d a ih => exact ih (crcByte s d)

/-- The shift is linear over GF(2): whether the polynomial is XORed in is the XOR of the two high bits. -/
theorem crcShift_xor (x y : Byte) : crcShift (x ^^^ y) = crcShift x ^^^ crcShift y := by
  simp only [crcShift, BitVec.getLsbD_xor, BitVec.shiftLeft_xor_distrib]
  cases x.getLsbD 7 <;> cases y.getLsbD 7
  · rfl
  · exact BitVec.xor_assoc ..
  · change x <<< 1 ^^^ y <<< 1 ^^^ crcPoly = x <<< 1 ^^^ crcPoly ^^^ y <<< 1
    ac_rfl
  · calc x <<< 1 ^^^ y <<< 1
        = x <<< 1 ^^^ y <<< 1 ^^^ (crcPoly ^^^ crcPoly) := by rw [BitVec.xor_self, BitVec.xor_zero]
      _ = x <<< 1 ^^^ crcPoly ^^^ (y <<< 1 ^^^ crcPoly) := by ac_rfl

/-- Only 0 shifts to 0: the polynomial is odd, and a doubled register is even. -/
theorem eq_zero_of_crcShift_eq_zero {c : Byte} (h : crcShift c = 0) : c = 0 := by
  have hnum : (crcShift c).toNat = 0 := congrArg BitVec.toNat h
  refine BitVec.eq_of_toNat_eq (?_ : c.toNat = 0)
  rcases Nat.lt_or_ge c.toNat 128 with hc | hc
  · rw [toNat_crcShift_of_lt hc] at hnum
    omega
  · rw [toNat_crcShift_of_ge hc, Nat.xor_eq_zero_iff] at hnum
    omega

/-- The repeated shift is linear over GF(2). -/
theorem crcShifts_xor (k : ℕ) (x y : Byte) : crcShifts k (x ^^^ y) = crcShifts k x ^^^ crcShifts k y := by
  induction k generalizing x y with
  | zero => rfl
  | succ k ih => rw [crcShifts, crcShift_xor, ih, crcShifts, crcShifts]

/-- Only 0 is shifted to 0 by the repeated shift. -/
theorem eq_zero_of_crcShifts_eq_zero {k : ℕ} {c : Byte} (h : crcShifts k c = 0) : c = 0 := by
  induction k generalizing c with
  | zero => exact h
  | succ k ih => exact eq_zero_of_crcShift_eq_zero (ih h)

/-- The repeated shift is injective, as a linear map whose kernel is 0. -/
theorem crcShifts_injective (k : ℕ) : Function.Injective (crcShifts k) := by
  intro x y h
  have hkernel : crcShifts k (x ^^^ y) = 0 := by rw [crcShifts_xor, h, BitVec.xor_self]; rfl
  exact BitVec.xor_eq_zero_iff.mp (eq_zero_of_crcShifts_eq_zero hkernel)

/-- The one-byte CRC is the eight shifts of the seed XORed with the byte. -/
theorem crc8_singleton (s b : Byte) : crc8 s [b] = crcShifts 8 (s ^^^ b) := rfl

/-- From the seed 0 it is the eight shifts of the byte. -/
theorem crc8_zero_singleton (b : Byte) : crc8 0 [b] = crcShifts 8 b := by
  rw [crc8_singleton]
  exact congrArg (crcShifts 8) (BitVec.zero_xor (x := b))

/-- Settles O25: each clause is a fact about the eight shifts. -/
theorem oneByteCrcIsALinearBijection : Obligations.OneByteCrcIsALinearBijection := by
  unfold Obligations.OneByteCrcIsALinearBijection
  simp only [crc8_zero_singleton]
  refine ⟨crc8_singleton, Finite.injective_iff_bijective.mp (crcShifts_injective 8), crcShifts_xor 8, by decide,
    fun s x y hne h => hne ?_, fun b s t hne h => hne ?_⟩
  · exact (BitVec.xor_right_inj s).mp (crcShifts_injective 8 h)
  · exact (BitVec.xor_left_inj b).mp (crcShifts_injective 8 h)

end Sys2Proof
end

section
/-! PROOFS. The CRC as a remainder over GF(2) (R100): the register stands above the data still to come, and one step of
the long division by 0x131 is one shift of the register. -/

namespace Sys2Proof

open Sys2Proof.Machine Sys2Proof.Safety

/-- Reducing a doubled register by 0x131 when its x^8 term is set leaves the shifted register. -/
theorem toNat_crcShift_eq_reduce (c : Byte) :
    (crcShift c).toNat = c.toNat <<< 1 ^^^ (if c.getLsbD 7 then 0x131 else 0) := by
  rw [getLsbD_seven, Nat.shiftLeft_eq]
  rcases Nat.lt_or_ge c.toNat 128 with hc | hc
  · rw [toNat_crcShift_of_lt hc, if_neg (by simpa using hc), Nat.xor_zero, pow_one]
  · rw [toNat_crcShift_of_ge hc, if_pos (decide_eq_true hc), pow_one]
    have hquot : (c.toNat * 2 ^^^ 0x131) / 2 ^ 8 = 0 := by
      have hbyte := c.isLt
      rw [Nat.xor_div_two_pow, (by omega : c.toNat * 2 / 2 ^ 8 = 1)]
      rfl
    have hrem : (c.toNat * 2 ^^^ 0x131) % 2 ^ 8 = c.toNat * 2 % 256 ^^^ 0x31 := Nat.xor_mod_two_pow
    omega

/-- One step of the long division is one shift of the register that stands above the data. -/
theorem polyRem_succ_shiftLeft_xor {k lo : ℕ} (c : Byte) (hlo : lo < 2 ^ (k + 8)) :
    polyRem (k + 1) (c.toNat <<< (k + 1) ^^^ lo) = polyRem k ((crcShift c).toNat <<< k ^^^ lo) := by
  have hbit : (c.toNat <<< (k + 1) ^^^ lo).testBit (k + 8) = c.getLsbD 7 := by
    rw [Nat.testBit_xor, Nat.testBit_lt_two_pow hlo, Bool.xor_false, Nat.testBit_shiftLeft,
      (by omega : k + 8 - (k + 1) = 7)]
    simp [BitVec.testBit_toNat]
  have hreduce : (if c.getLsbD 7 then c.toNat <<< (k + 1) ^^^ lo ^^^ 0x131 <<< k else c.toNat <<< (k + 1) ^^^ lo)
      = (crcShift c).toNat <<< k ^^^ lo := by
    rw [toNat_crcShift_eq_reduce, Nat.shiftLeft_xor_distrib, ← Nat.shiftLeft_add, Nat.add_comm 1 k]
    split
    · exact Nat.xor_right_comm ..
    · simp
  rw [polyRem, hbit, hreduce]

/-- j steps of the long division are j shifts of the register. -/
theorem polyRem_add_shiftLeft_xor {k lo : ℕ} (j : ℕ) (c : Byte) (hlo : lo < 2 ^ (k + 8)) :
    polyRem (k + j) (c.toNat <<< (k + j) ^^^ lo) = polyRem k ((crcShifts j c).toNat <<< k ^^^ lo) := by
  induction j generalizing c with
  | zero => rfl
  | succ j ih =>
    have hlo' : lo < 2 ^ (k + j + 8) := hlo.trans_le (Nat.pow_le_pow_right (by omega) (by omega))
    rw [← Nat.add_assoc, polyRem_succ_shiftLeft_xor c hlo', ih, crcShifts]

/-- A byte sequence of n bytes is below 2^(8n). -/
theorem bigEndian_lt (acc : ℕ) (l : List Byte) : bigEndian acc l < (acc + 1) * 2 ^ (8 * l.length) := by
  induction l generalizing acc with
  | nil => simp [bigEndian]
  | cons b bs ih =>
    calc bigEndian (acc * 256 + b.toNat) bs
        < (acc * 256 + b.toNat + 1) * 2 ^ (8 * bs.length) := ih _
      _ ≤ ((acc + 1) * 256) * 2 ^ (8 * bs.length) := Nat.mul_le_mul_right _ (by have := b.isLt; omega)
      _ = (acc + 1) * 2 ^ (8 * (bs.length + 1)) := by rw [pow_mul, pow_mul, pow_succ]; ring

/-- A byte stands XORed below what is shifted above it. -/
theorem shiftLeft_eight_xor (a : ℕ) (b : Byte) : a <<< 8 ^^^ b.toNat = a * 256 + b.toNat := by
  have hb := b.isLt
  have hquot : (a <<< 8 ^^^ b.toNat) / 2 ^ 8 = a := by
    rw [Nat.xor_div_two_pow, Nat.div_eq_of_lt hb, Nat.xor_zero, Nat.shiftLeft_eq, Nat.mul_div_cancel _ (by decide)]
  have hrem : (a <<< 8 ^^^ b.toNat) % 2 ^ 8 = b.toNat := by
    rw [Nat.xor_mod_two_pow, Nat.mod_eq_of_lt hb, Nat.shiftLeft_eq, Nat.mul_mod_left, Nat.zero_xor]
  omega

/-- What is XORed into the bytes before a sequence stands XORed above the sequence. -/
theorem bigEndian_xor (a b : ℕ) (l : List Byte) :
    bigEndian (a ^^^ b) l = a <<< (8 * l.length) ^^^ bigEndian b l := by
  induction l generalizing a b with
  | nil => rfl
  | cons d ds ih =>
    have hnext : (a ^^^ b) * 256 + d.toNat = a <<< 8 ^^^ (b * 256 + d.toNat) := by
      rw [← shiftLeft_eight_xor, ← shiftLeft_eight_xor, Nat.shiftLeft_xor_distrib, Nat.xor_assoc]
    rw [bigEndian, hnext, ih, ← Nat.shiftLeft_add, Nat.add_comm 8, bigEndian, List.length_cons, Nat.mul_succ 8]

/-- The first byte of a sequence stands XORed above the others. -/
theorem bigEndian_zero_cons (d : Byte) (ds : List Byte) :
    bigEndian 0 (d :: ds) = d.toNat <<< (8 * ds.length) ^^^ bigEndian 0 ds := by
  rw [← bigEndian_xor, Nat.xor_zero, bigEndian, Nat.zero_mul, Nat.zero_add]

/-- The CRC of any sequence from any seed is the remainder of the sequence times x^8, with the seed XORed into its first
eight bits. -/
theorem toNat_crc8_eq_polyRem (s : Byte) (data : List Byte) :
    (crc8 s data).toNat
      = polyRem (8 * data.length) (s.toNat <<< (8 * data.length) ^^^ bigEndian 0 data <<< 8) := by
  induction data generalizing s with
  | nil => simp [polyRem, bigEndian]
  | cons d ds ih =>
    have hlo : bigEndian 0 ds <<< 8 < 2 ^ (8 * ds.length + 8) := by
      rw [Nat.shiftLeft_eq, pow_add]
      exact Nat.mul_lt_mul_of_pos_right (by simpa using bigEndian_lt 0 ds) (by decide)
    have hregister : s.toNat <<< (8 * ds.length + 8) ^^^ bigEndian 0 (d :: ds) <<< 8
        = (s ^^^ d).toNat <<< (8 * ds.length + 8) ^^^ bigEndian 0 ds <<< 8 := by
      rw [bigEndian_zero_cons, Nat.shiftLeft_xor_distrib, ← Nat.shiftLeft_add, ← Nat.xor_assoc,
        ← Nat.shiftLeft_xor_distrib, BitVec.toNat_xor]
    rw [crc8_cons, ih, List.length_cons, Nat.mul_succ, hregister, polyRem_add_shiftLeft_xor 8 (s ^^^ d) hlo, crcByte]

/-- The seed goes into the register as the first byte does (R105). -/
theorem crc8_cons_eq_zero_cons (s d : Byte) (ds : List Byte) : crc8 s (d :: ds) = crc8 0 ((d ^^^ s) :: ds) := by
  simp [crc8_cons, crcByte, BitVec.xor_comm]

/-- Settles O23: the seed XORed into the first byte leaves the seed 0 over the data. -/
theorem crcIsThePolynomialRemainder : Obligations.CrcIsThePolynomialRemainder := by
  unfold Obligations.CrcIsThePolynomialRemainder
  intro seed d data
  rw [crc8_cons_eq_zero_cons, toNat_crc8_eq_polyRem, List.length_cons]
  simp [Nat.shiftLeft_eq]

end Sys2Proof
end

section
/-! PROOFS. CRC8 and CRCCHK through the port (R101, R102), and the chain of two CRC8 requests (R104). -/

namespace Sys2Proof

open Sys2Proof.Machine Sys2Proof.Safety

/-- The frame of a well-formed operation gets the operation's response from every state. -/
theorem responds_encode {i : Instr} (h : i.wf = true) : Responds (encode i) i.response :=
  frameResponse_encode h ▸ responds_frameResponse (encode i)

/-- The frame of a CRC8 request gets the CRC, from every state (R101). -/
theorem responds_crc8 (seed : Byte) {data : List Byte} (h : data.length ≤ 255) :
    Responds ([0x01, seed] ++ counted data) [0x00, crc8 seed data] :=
  responds_encode (i := .crc8 seed data) (decide_eq_true h)

/-- The frame of a CRCCHK request gets both bytes and their verdict, from every state (R102). -/
theorem responds_crcchk (seed rcv : Byte) {data : List Byte} (h : data.length ≤ 255) :
    Responds ([0x02, seed] ++ counted data ++ [rcv])
      [if crc8 seed data = rcv then 0x00 else 0x01, crc8 seed data, rcv] :=
  responds_encode (i := .crcchk seed data rcv) (decide_eq_true h)

/-- Zeros leave the seed 0 (R101). -/
theorem crc8_zero_replicate (n : ℕ) : crc8 0 (List.replicate n 0) = 0 := by
  induction n with
  | zero => rfl
  | succ n ih => rw [List.replicate_succ, crc8_cons, (by decide : crcByte 0 0 = 0), ih]

/-- A legal CRC8 request has three bytes at least, and the length its count gives (R69, R101). -/
theorem length_of_legalRequest_crc8 {q : Frame} (hop : q.head? = some 0x01) (h : legalRequest q = true) :
    3 ≤ q.length ∧ q.length = 3 + num q 2 := by
  obtain ⟨p, rfl⟩ := List.head?_eq_some_iff.mp hop
  obtain ⟨hmin, hlen⟩ := exists_decodeCrc_ok.mp ((legalRequest_code_cons .crc8 p).mp h)
  have hcount : num (0x01 :: p) 2 = num p 1 := rfl
  rw [List.length_cons]
  omega

/-- A legal CRCCHK request has three bytes at least, and the length its count gives (R69, R102). -/
theorem length_of_legalRequest_crcchk {q : Frame} (hop : q.head? = some 0x02) (h : legalRequest q = true) :
    3 ≤ q.length ∧ q.length = 4 + num q 2 := by
  obtain ⟨p, rfl⟩ := List.head?_eq_some_iff.mp hop
  obtain ⟨hmin, hlen⟩ := exists_decodeChk_ok.mp ((legalRequest_code_cons .crcchk p).mp h)
  have hcount : num (0x02 :: p) 2 = num p 1 := rfl
  rw [List.length_cons]
  omega

/-- A frame outside the lengths that legal requests of its kind have is answered ILLEGAL_REQUEST from every state. -/
theorem responds_illegal_of_length {q : Frame} {n : ℕ}
    (hlegal : legalRequest q = true → 3 ≤ q.length ∧ q.length = n)
    (hlen : q.length < 3 ∨ q.length ≠ n) : Responds q [0x03] := by
  refine responds_illegal_of_not_legalRequest (Bool.eq_false_iff.mpr fun h => ?_)
  obtain ⟨hmin, heq⟩ := hlegal h
  omega

/-- Settles O11: the cases without data and with zeros are requests whose CRC is known. -/
theorem crc8AnswersTheCrc : Obligations.Crc8AnswersTheCrc := by
  unfold Obligations.Crc8AnswersTheCrc
  refine ⟨fun seed data => ⟨completes_response (.crc8 seed data), responds_crc8 seed⟩,
    fun q hop => responds_illegal_of_length (length_of_legalRequest_crc8 hop),
    fun seed => responds_crc8 seed (data := []) (by decide), fun n hn => ?_,
    responds_crc8 0x00 (data := [0x00]) (by decide)⟩
  have hzeros := responds_crc8 0 (data := List.replicate n 0) (by simpa using hn)
  rwa [crc8_zero_replicate] at hzeros

/-- Settles O12: no data leaves the seed to be compared. -/
theorem crcchkComparesTheReceivedByte : Obligations.CrcchkComparesTheReceivedByte := by
  unfold Obligations.CrcchkComparesTheReceivedByte
  exact ⟨fun seed data rcv => ⟨completes_response (.crcchk seed data rcv), responds_crcchk seed rcv⟩,
    fun q hop => responds_illegal_of_length (length_of_legalRequest_crcchk hop),
    fun seed rcv => responds_crcchk seed rcv (data := []) (by decide),
    responds_crcchk 0x00 0x00 (data := [0x12]) (by decide)⟩

/-- Settles O24: the host's second seed is the CRC of the first list. -/
theorem crcChains : Obligations.CrcChains := by
  unfold Obligations.CrcChains
  refine ⟨fun s a b => (crc8_append s a b).symm, fun s a b hlen => ⟨crc8 s a, crc8 s (a ++ b), ?_, ?_, ?_⟩⟩
  · exact responds_crc8 s (by omega)
  · rw [crc8_append]
    exact responds_crc8 (crc8 s a) (by omega)
  · exact responds_crc8 s (by rwa [List.length_append])

end Sys2Proof
end

section
/-! PROOFS. The fields of the two registers (R120 to R126): a decoded field and a merged byte in plain numbers, and the
bits a merge keeps and replaces. -/

namespace Sys2Proof

open Sys2Proof.Machine

/-- One bit of a byte as a number. -/
theorem toNat_bitByte (v : Byte) (i : ℕ) : (bitByte v i).toNat = v.toNat / 2 ^ i % 2 := by
  rw [bitByte, BitVec.getLsbD, Nat.testBit_eq_decide_div_mod_eq]
  rcases Nat.mod_two_eq_zero_or_one (v.toNat / 2 ^ i) with h | h <;> simp [h]

/-- The resolution code is bit 7 above bit 0 (R120, R121; log 8). -/
theorem toNat_resolutionOf (u : Byte) : (resolutionOf u).toNat = u.toNat / 128 * 2 + u.toNat % 2 := by
  have hhigh : (bitByte u 7).toNat = u.toNat / 128 := by
    rw [toNat_bitByte]
    omega
  have hlow : (bitByte u 0).toNat = u.toNat % 2 := by rw [toNat_bitByte, Nat.pow_zero, Nat.div_one]
  rw [← hhigh, ← hlow, resolutionOf, bitByte, bitByte]
  cases u.getLsbD 7 <;> cases u.getLsbD 0 <;> rfl

/-- heaterEnabled is bit 2 (R120). -/
theorem toNat_heaterOf (u : Byte) : (heaterOf u).toNat = u.toNat / 4 % 2 := toNat_bitByte u 2

/-- voltageLow is bit 6 (R120). -/
theorem toNat_voltageLowOf (u : Byte) : (voltageLowOf u).toNat = u.toNat / 64 % 2 := toNat_bitByte u 6

/-- A byte is the 8-bit value of its number. -/
theorem eq_ofNat_of_toNat_eq {b : Byte} {n : ℕ} (h : b.toNat = n) : b = BitVec.ofNat 8 n := by
  rw [← h, BitVec.ofNat_toNat, BitVec.setWidth_eq]

/-- The heater level is the byte modulo 16 (R125, R126; log 9). -/
theorem toNat_and_levelMask (h : Byte) : (h &&& levelMask).toNat = h.toNat % 16 :=
  Nat.and_two_pow_sub_one_eq_mod h.toNat 4

/-- R123 bit by bit. -/
theorem getLsbD_merge (cur m f : Byte) (k : ℕ) :
    (merge cur m f).getLsbD k = if m.getLsbD k then f.getLsbD k else cur.getLsbD k := by
  rw [merge, BitVec.getLsbD_or, BitVec.getLsbD_and, BitVec.getLsbD_and, BitVec.getLsbD_not]
  by_cases hk : k < 8
  · cases m.getLsbD k <;> simp [hk]
  · simp [BitVec.getLsbD_of_ge _ k (Nat.le_of_not_lt hk)]

/-- A merged byte's bit, as UREGDEC reads it. -/
theorem bitByte_merge (cur m f : Byte) (k : ℕ) :
    bitByte (merge cur m f) k = if m.getLsbD k then bitByte f k else bitByte cur k := by
  rw [bitByte, getLsbD_merge]
  cases m.getLsbD k <;> rfl

/-- The bits that the mask does not own stay (R123). -/
theorem merge_and_of_disjoint {m k : Byte} (h : m &&& k = 0) (cur f : Byte) : merge cur m f &&& k = cur &&& k := by
  refine BitVec.eq_of_getLsbD_eq fun i _ => ?_
  have hi : (m.getLsbD i && k.getLsbD i) = false := by
    rw [← BitVec.getLsbD_and, h]
    exact BitVec.getLsbD_zero
  rw [BitVec.getLsbD_and, BitVec.getLsbD_and, getLsbD_merge]
  cases hm : m.getLsbD i with
  | false => rfl
  | true => simp_all

/-- The kept bits and the new field do not overlap, so the merge adds them. -/
theorem toNat_merge (cur m f : Byte) : (merge cur m f).toNat = (cur &&& ~~~m).toNat + (f &&& m).toNat := by
  have hdisjoint : (cur &&& ~~~m) &&& (f &&& m) = 0 := by
    rw [BitVec.and_comm f, BitVec.and_assoc, ← BitVec.and_assoc (~~~m), BitVec.not_and_self]
    simp
  rw [merge, ← BitVec.add_eq_or_of_and_eq_zero _ _ hdisjoint, BitVec.toNat_add_of_and_eq_zero hdisjoint]

/-- What UREGRES keeps: bits 6..1. -/
theorem toNat_and_not_resolutionMask (cur : Byte) : (cur &&& ~~~resolutionMask).toNat = cur.toNat % 128 / 2 * 2 := by
  revert cur
  decide

/-- What UREGRES sets: bits 7 and 0, from the code's bits 1 and 0 (R121; log 8). -/
theorem toNat_resBits_and_resolutionMask {res : Byte} (h : res.toNat ≤ 3) :
    (resBits res &&& resolutionMask).toNat = res.toNat / 2 * 128 + res.toNat % 2 := by
  revert res
  decide

/-- What UREGHTR keeps: bits 7..3 and 1..0. -/
theorem toNat_and_not_heaterMask (cur : Byte) :
    (cur &&& ~~~heaterMask).toNat = cur.toNat / 8 * 8 + cur.toNat % 4 := by
  revert cur
  decide

/-- What UREGHTR sets: bit 2. -/
theorem toNat_shiftLeft_and_heaterMask {en : Byte} (h : en.toNat ≤ 1) :
    (en <<< 2 &&& heaterMask).toNat = en.toNat * 4 := by
  revert en
  decide

/-- The byte UREGRES writes, in plain numbers (R122). -/
theorem toNat_withResolution (cur : Byte) {res : Byte} (h : res.toNat ≤ 3) :
    (withResolution cur res).toNat = res.toNat / 2 * 128 + cur.toNat % 128 / 2 * 2 + res.toNat % 2 := by
  rw [withResolution, toNat_merge, toNat_and_not_resolutionMask, toNat_resBits_and_resolutionMask h]
  omega

/-- The byte UREGHTR writes, in plain numbers (R124). -/
theorem toNat_withHeater (cur : Byte) {en : Byte} (h : en.toNat ≤ 1) :
    (withHeater cur en).toNat = cur.toNat / 8 * 8 + en.toNat * 4 + cur.toNat % 4 := by
  rw [withHeater, toNat_merge, toNat_and_not_heaterMask, toNat_shiftLeft_and_heaterMask h]
  omega

/-- A code of two bits is a legal operand of UREGRES (R71). -/
theorem toNat_resolutionOf_le (u : Byte) : (resolutionOf u).toNat ≤ 3 := by
  rw [toNat_resolutionOf]
  omega

/-- One bit is a legal operand of UREGHTR (R71). -/
theorem toNat_heaterOf_le (u : Byte) : (heaterOf u).toNat ≤ 1 := by
  rw [toNat_heaterOf]
  omega

/-- Setting the current resolution changes nothing (R122). -/
theorem withResolution_resolutionOf (cur : Byte) : withResolution cur (resolutionOf cur) = cur := by
  apply BitVec.eq_of_toNat_eq
  rw [toNat_withResolution cur (toNat_resolutionOf_le cur), toNat_resolutionOf]
  omega

/-- Setting the current heaterEnabled changes nothing (R124). -/
theorem withHeater_heaterOf (cur : Byte) : withHeater cur (heaterOf cur) = cur := by
  apply BitVec.eq_of_toNat_eq
  rw [toNat_withHeater cur (toNat_heaterOf_le cur), toNat_heaterOf]
  omega

/-- Settles O26: the mask of each register change shares no bit with the bits it must keep. -/
theorem mergeTouchesOnlyTheOwnedBits : Obligations.MergeTouchesOnlyTheOwnedBits := by
  unfold Obligations.MergeTouchesOnlyTheOwnedBits
  exact ⟨getLsbD_merge, fun cur res => merge_and_of_disjoint (by decide) cur (resBits res),
    fun cur en => merge_and_of_disjoint (by decide) cur (en <<< 2)⟩

end Sys2Proof
end

section
/-! PROOFS. The register requests through the port (R120 to R126): each frame's response, and the frames of the formats
F-B1 and F-B2 that are answered [03]. -/

namespace Sys2Proof

open Sys2Proof.Machine Sys2Proof.Safety

/-- A frame whose operand bytes its opcode's format refuses is answered ILLEGAL_REQUEST from every state. -/
theorem responds_illegal_of_format {o : Opcode} {p : Frame} (h : ¬ ∃ i, decodeOperands p o = .ok i) :
    Responds (o.code :: p) [0x03] :=
  responds_illegal_of_not_legalRequest (Bool.eq_false_iff.mpr (mt (legalRequest_code_cons o p).mp h))

/-- A request of format F-B1 has two bytes (R64). -/
theorem responds_illegal_of_formatB1 {o : Opcode} {mk : Byte → Instr} {q : Frame}
    (hformat : ∀ p, decodeOperands p o = decodeB1 mk p) (hop : q.head? = some o.code) (hlen : q.length ≠ 2) :
    Responds q [0x03] := by
  obtain ⟨p, rfl⟩ := List.head?_eq_some_iff.mp hop
  refine responds_illegal_of_format ?_
  rw [hformat, exists_decodeB1_ok]
  simpa using hlen

/-- A request of format F-B2 has three bytes and a second operand in its range (R65, R71). -/
theorem responds_illegal_of_formatB2 {o : Opcode} {mk : Byte → Byte → Instr} {top : Byte} {q : Frame}
    (hformat : ∀ p, decodeOperands p o = decodeB2 mk top p) (hop : q.head? = some o.code)
    (hbad : top.toNat < num q 2 ∨ q.length ≠ 3) : Responds q [0x03] := by
  obtain ⟨p, rfl⟩ := List.head?_eq_some_iff.mp hop
  refine responds_illegal_of_format ?_
  rw [hformat, exists_decodeB2_ok]
  rintro ⟨hlen, hle⟩
  rcases hbad with hover | hother
  · exact absurd hle (Nat.not_le.mpr hover)
  · exact hother (congrArg (· + 1) hlen)

/-- UREGDEC's response is a function of the three fields it reads (R120). -/
theorem responds_uregdec (u : Byte) : Responds [0x03, u] [0x00, resolutionOf u, heaterOf u, voltageLowOf u] :=
  responds_encode (i := .uregdec u) rfl

/-- UREGRES answers the command byte and the merged byte (R122). -/
theorem responds_uregres (cur : Byte) {res : Byte} (h : res.toNat ≤ 3) :
    Responds [0x04, cur, res] [0x00, 0xE6, withResolution cur res] :=
  responds_encode (i := .uregres cur res) (decide_eq_true h)

/-- UREGHTR answers the command byte and the merged byte (R124). -/
theorem responds_ureghtr (cur : Byte) {en : Byte} (h : en.toNat ≤ 1) :
    Responds [0x05, cur, en] [0x00, 0xE6, withHeater cur en] :=
  responds_encode (i := .ureghtr cur en) (decide_eq_true h)

/-- HTRDEC answers the level (R125). -/
theorem responds_htrdec (h : Byte) : Responds [0x06, h] [0x00, h &&& levelMask] :=
  responds_encode (i := .htrdec h) rfl

/-- HTRENC answers the command byte and the masked level (R126). -/
theorem responds_htrenc (level : Byte) : Responds [0x07, level] [0x00, 0x51, level &&& levelMask] :=
  responds_encode (i := .htrenc level) rfl

/-- UREGDEC's response in plain numbers (R120). -/
theorem response_uregdec (u : Byte) :
    (Instr.uregdec u).response = [0x00, BitVec.ofNat 8 (u.toNat / 128 * 2 + u.toNat % 2),
      BitVec.ofNat 8 (u.toNat / 4 % 2), BitVec.ofNat 8 (u.toNat / 64 % 2)] := by
  rw [Instr.response, eq_ofNat_of_toNat_eq (toNat_resolutionOf u), eq_ofNat_of_toNat_eq (toNat_heaterOf u),
    eq_ofNat_of_toNat_eq (toNat_voltageLowOf u)]

/-- A changed bit that UREGDEC does not read does not show in its response (R120). -/
theorem response_uregdec_xor (u m : Byte) :
    (Instr.uregdec (u ^^^ (m &&& 0x3A))).response = (Instr.uregdec u).response := by
  have hbit (k : ℕ) (hk : (0x3A : Byte).getLsbD k = false) : bitByte (u ^^^ (m &&& 0x3A)) k = bitByte u k := by
    rw [bitByte, BitVec.getLsbD_xor, BitVec.getLsbD_and, hk, Bool.and_false, Bool.xor_false, bitByte]
  rw [Instr.response, resolutionOf, heaterOf, voltageLowOf, hbit 7 rfl, hbit 0 rfl, hbit 2 rfl, hbit 6 rfl]
  rfl

/-- Settles O13: the response reads bits 7, 6, 2 and 0 alone. -/
theorem uregdecDecodesTheFields : Obligations.UregdecDecodesTheFields := by
  unfold Obligations.UregdecDecodesTheFields
  refine ⟨fun u => ?_, fun q => responds_illegal_of_formatB1 (o := .uregdec) fun _ => rfl, responds_uregdec 0xFF⟩
  rw [← response_uregdec]
  refine ⟨completes_response (.uregdec u), responds_uregdec u, fun m => ?_⟩
  rw [← response_uregdec_xor u m]
  exact responds_uregdec (u ^^^ (m &&& 0x3A))

/-- Settles O14: the code that cur holds is a legal operand, and setting it merges to cur. -/
theorem uregresSetsTheResolution : Obligations.UregresSetsTheResolution := by
  unfold Obligations.UregresSetsTheResolution
  refine ⟨fun cur res hres => ?_, fun cur => ?_, fun q => responds_illegal_of_formatB2 (o := .uregres) fun _ => rfl,
    rfl, responds_uregres 0x3A (by decide)⟩
  · rw [← eq_ofNat_of_toNat_eq (toNat_withResolution cur hres)]
    exact ⟨completes_response (.uregres cur res), responds_uregres cur hres⟩
  · have hsame := responds_uregres cur (toNat_resolutionOf_le cur)
    rwa [withResolution_resolutionOf, eq_ofNat_of_toNat_eq (toNat_resolutionOf cur)] at hsame

/-- Settles O15: the enable that cur holds is a legal operand, and setting it merges to cur. -/
theorem ureghtrSetsTheHeaterEnable : Obligations.UreghtrSetsTheHeaterEnable := by
  unfold Obligations.UreghtrSetsTheHeaterEnable
  refine ⟨fun cur en hen => ?_, fun cur => ?_, fun q => responds_illegal_of_formatB2 (o := .ureghtr) fun _ => rfl,
    responds_ureghtr 0xBB (by decide)⟩
  · rw [← eq_ofNat_of_toNat_eq (toNat_withHeater cur hen)]
    exact ⟨completes_response (.ureghtr cur en), responds_ureghtr cur hen⟩
  · have hsame := responds_ureghtr cur (toNat_heaterOf_le cur)
    rwa [withHeater_heaterOf, eq_ofNat_of_toNat_eq (toNat_heaterOf cur)] at hsame

/-- Settles O16: the level mask is the remainder modulo 16. -/
theorem htrdecDecodesTheLevel : Obligations.HtrdecDecodesTheLevel := by
  unfold Obligations.HtrdecDecodesTheLevel
  refine ⟨fun h => ?_, fun q => responds_illegal_of_formatB1 (o := .htrdec) fun _ => rfl, responds_htrdec 0xF5⟩
  rw [← eq_ofNat_of_toNat_eq (toNat_and_levelMask h)]
  exact ⟨completes_response (.htrdec h), responds_htrdec h⟩

/-- Settles O17: the level mask is the remainder modulo 16, whatever the level. -/
theorem htrencEncodesTheMaskedLevel : Obligations.HtrencEncodesTheMaskedLevel := by
  unfold Obligations.HtrencEncodesTheMaskedLevel
  refine ⟨fun level => ?_, fun q => responds_illegal_of_formatB1 (o := .htrenc) fun _ => rfl, rfl,
    responds_htrenc 0x0F⟩
  rw [← eq_ofNat_of_toNat_eq (toNat_and_levelMask level)]
  exact ⟨completes_response (.htrenc level), responds_htrenc level⟩

end Sys2Proof
end

section
/-! PROOFS. The round trips of R127: which fields of the User Register a merge replaces and which it carries over, and a
masked level read back. -/

namespace Sys2Proof

open Sys2Proof.Machine Sys2Proof.Safety

/-- The code's register bits read back as the code (R121; log 8). -/
theorem resolutionOf_resBits {res : Byte} (h : res.toNat ≤ 3) : resolutionOf (resBits res) = res := by
  revert res
  decide

/-- The enable at its place reads back as the enable. -/
theorem heaterOf_shiftLeft {en : Byte} (h : en.toNat ≤ 1) : heaterOf (en <<< 2) = en := by
  revert en
  decide

theorem resolutionOf_withResolution (cur : Byte) {res : Byte} (h : res.toNat ≤ 3) :
    resolutionOf (withResolution cur res) = res :=
  calc resolutionOf (withResolution cur res)
    _ = resolutionOf (resBits res) := by
      rw [withResolution, resolutionOf, bitByte_merge, bitByte_merge]
      rfl
    _ = res := resolutionOf_resBits h

theorem heaterOf_withResolution (cur res : Byte) : heaterOf (withResolution cur res) = heaterOf cur :=
  bitByte_merge cur resolutionMask (resBits res) 2

theorem voltageLowOf_withResolution (cur res : Byte) : voltageLowOf (withResolution cur res) = voltageLowOf cur :=
  bitByte_merge cur resolutionMask (resBits res) 6

theorem heaterOf_withHeater (cur : Byte) {en : Byte} (h : en.toNat ≤ 1) : heaterOf (withHeater cur en) = en :=
  calc heaterOf (withHeater cur en)
    _ = heaterOf (en <<< 2) := bitByte_merge cur heaterMask (en <<< 2) 2
    _ = en := heaterOf_shiftLeft h

theorem resolutionOf_withHeater (cur en : Byte) : resolutionOf (withHeater cur en) = resolutionOf cur := by
  rw [withHeater, resolutionOf, bitByte_merge, bitByte_merge]
  rfl

theorem voltageLowOf_withHeater (cur en : Byte) : voltageLowOf (withHeater cur en) = voltageLowOf cur :=
  bitByte_merge cur heaterMask (en <<< 2) 6

/-- A level in its range is its own masked level. -/
theorem and_levelMask_of_le {level : Byte} (h : level.toNat ≤ 15) : level &&& levelMask = level := by
  apply BitVec.eq_of_toNat_eq
  rw [toNat_and_levelMask, Nat.mod_eq_of_lt (Nat.lt_succ_of_le h)]

/-- Masking twice is masking once. -/
theorem and_levelMask_and_levelMask (h : Byte) : h &&& levelMask &&& levelMask = h &&& levelMask := by
  rw [BitVec.and_assoc, BitVec.and_self]

/-- Settles O27: UREGDEC reads the new field from the merged byte and the other fields from cur. -/
theorem registerRoundTrips : Obligations.RegisterRoundTrips := by
  unfold Obligations.RegisterRoundTrips
  refine ⟨fun cur res hres => ⟨withResolution cur res, responds_uregres cur hres, ?_⟩,
    fun cur en hen => ⟨withHeater cur en, resolutionOf cur, voltageLowOf cur, heaterOf cur,
      responds_ureghtr cur hen, ?_, responds_uregdec cur⟩,
    fun level hlevel => ⟨level, ?_, ?_⟩, fun h => ⟨h &&& levelMask, responds_htrdec h, ?_⟩⟩
  · have hread := responds_uregdec (withResolution cur res)
    rwa [resolutionOf_withResolution cur hres, heaterOf_withResolution, voltageLowOf_withResolution,
      eq_ofNat_of_toNat_eq (toNat_heaterOf cur), eq_ofNat_of_toNat_eq (toNat_voltageLowOf cur)] at hread
  · have hread := responds_uregdec (withHeater cur en)
    rwa [resolutionOf_withHeater, heaterOf_withHeater cur hen, voltageLowOf_withHeater] at hread
  · have hwrite := responds_htrenc level
    rwa [and_levelMask_of_le hlevel] at hwrite
  · have hread := responds_htrdec level
    rwa [and_levelMask_of_le hlevel] at hread
  · have hwrite := responds_htrenc (h &&& levelMask)
    rwa [and_levelMask_and_levelMask] at hwrite

end Sys2Proof
end

section
/-! PROOFS. The rounding of R150: which integers round to a value or more, and which rational each value stands for. -/

namespace Sys2Proof

open Sys2Proof.Machine Sys2Proof.Safety

/-- The least numerator over 65536 that rounds to v or more: the tie below v counts where v is the further from zero. -/
def roundingThreshold (v : ℤ) : ℤ := if 0 < v then 65536 * v - 32768 else 65536 * v - 32767

/-- At and above zero, half is added before the division (R150). -/
theorem rha_of_nonneg {n : ℤ} (h : 0 ≤ n) : rha n 65536 = (n + 32768) / 65536 := if_pos h

/-- Below zero, the magnitude is rounded (R150). -/
theorem rha_of_neg {n : ℤ} (h : n < 0) : rha n 65536 = -((-n + 32768) / 65536) := if_neg (not_le.mpr h)

/-- What rounds to v or more is what reaches v's threshold (R150). -/
theorem le_rha_iff (n v : ℤ) : v ≤ rha n 65536 ↔ roundingThreshold v ≤ n := by
  rcases lt_or_ge n 0 with hn | hn
  · rw [rha_of_neg hn, roundingThreshold]
    omega
  · rw [rha_of_nonneg hn, roundingThreshold]
    omega

/-- What rounds to v lies between v's threshold and the next (R150). -/
theorem rha_eq_iff (n v : ℤ) : rha n 65536 = v ↔ roundingThreshold v ≤ n ∧ n < roundingThreshold (v + 1) := by
  rw [← le_rha_iff, ← not_le, ← le_rha_iff]
  omega

/-- Rounding keeps the order (R151). -/
theorem rha_mono {m n : ℤ} (h : m ≤ n) : rha m 65536 ≤ rha n 65536 :=
  (le_rha_iff n _).mpr (((le_rha_iff m _).mp le_rfl).trans h)

/-- Rounding to nearest with ties away from zero, without fractions: everything times 65536. -/
theorem roundsTo_div_iff (n v : ℤ) :
    RoundsTo ((n : ℚ) / 65536) v ↔
      |n - 65536 * v| ≤ 32768 ∧ (|n - 65536 * v| = 32768 → |n| < 65536 * |v|) := by
  have hdist : |(n : ℚ) / 65536 - v| = (|n - 65536 * v| : ℤ) / 65536 := by
    rw [div_sub' (by norm_num), abs_div]
    push_cast
    norm_num
  have hsize : |(n : ℚ) / 65536| = (|n| : ℤ) / 65536 := by
    rw [abs_div]
    push_cast
    norm_num
  have hnear : ((|n - 65536 * v| : ℤ) : ℚ) / 65536 ≤ 1 / 2 ↔ |n - 65536 * v| ≤ 32768 := by
    rw [div_le_iff₀ (by norm_num), ← Int.cast_le (R := ℚ)]
    norm_num
  have htie : ((|n - 65536 * v| : ℤ) : ℚ) / 65536 = 1 / 2 ↔ |n - 65536 * v| = 32768 := by
    rw [div_eq_iff (by norm_num), ← Int.cast_inj (α := ℚ)]
    norm_num
  have hfurther : ((|n| : ℤ) : ℚ) / 65536 < |(v : ℚ)| ↔ |n| < 65536 * |v| := by
    rw [div_lt_iff₀' (by norm_num), ← Int.cast_lt (R := ℚ)]
    norm_num
  rw [RoundsTo, hdist, hsize, hnear, htie, hfurther]

/-- Settles O28: both sides put n between the thresholds of v and of v + 1. -/
theorem rhaRoundsHalfAwayFromZero : Obligations.RhaRoundsHalfAwayFromZero := by
  unfold Obligations.RhaRoundsHalfAwayFromZero
  intro n v
  rw [roundsTo_div_iff, rha_eq_iff]
  simp only [roundingThreshold, abs_eq_max_neg]
  omega

end Sys2Proof
end

section
/-! PROOFS. The two conversions of R151 as one: a linear function of the raw code, rounded once. Its formula, its order,
and the raw codes that each value is taken by (R155). -/

namespace Sys2Proof

open Sys2Proof.Machine Sys2Proof.Safety

/-- A conversion of R151: a linear function of the raw code over 65536, rounded. -/
def linearConv (slope offset : ℤ) (raw : Half) : ℤ := rha (raw.toNat * slope - offset) 65536

theorem rhCenti_eq_linearConv : rhCenti = linearConv 12500 39321600 := rfl

theorem tCenti_eq_linearConv : tCenti = linearConv 17572 307036160 := rfl

/-- The conversion rounds the exact quotient. -/
theorem roundsTo_linearConv (slope offset : ℤ) (raw : Half) :
    RoundsTo (((raw.toNat : ℚ) * slope - offset) / 65536) (linearConv slope offset raw) := by
  have hround := (rhaRoundsHalfAwayFromZero (raw.toNat * slope - offset) (linearConv slope offset raw)).mpr rfl
  push_cast at hround
  exact hround

/-- A conversion with a slope that is not negative keeps the order (R151). -/
theorem linearConv_mono {slope : ℤ} (hslope : 0 ≤ slope) (offset : ℤ) {x y : Half} (h : x.toNat ≤ y.toNat) :
    linearConv slope offset x ≤ linearConv slope offset y :=
  rha_mono (Int.sub_le_sub_right (Int.mul_le_mul_of_nonneg_right (Int.ofNat_le.mpr h) hslope) offset)

/-- Every value lies between those of the end codes. -/
theorem linearConv_mem_range {slope : ℤ} (hslope : 0 ≤ slope) (offset : ℤ) (raw : Half) :
    linearConv slope offset 0 ≤ linearConv slope offset raw ∧
      linearConv slope offset raw ≤ linearConv slope offset 65535 :=
  ⟨linearConv_mono hslope offset (Nat.zero_le _), linearConv_mono hslope offset (Nat.le_of_lt_succ raw.isLt)⟩

/-- The end points of R151. -/
theorem conversions_at_end_codes :
    rhCenti 0 = -600 ∧ rhCenti 65535 = 11900 ∧ tCenti 0 = -4685 ∧ tCenti 65535 = 12887 := by decide

/-- The ranges of R151, which are those of the end codes. -/
theorem conversions_mem_range (raw : Half) :
    -600 ≤ rhCenti raw ∧ rhCenti raw ≤ 11900 ∧ -4685 ≤ tCenti raw ∧ tCenti raw ≤ 12887 := by
  obtain ⟨hrhMin, hrhMax, htMin, htMax⟩ := conversions_at_end_codes
  rw [← hrhMin, ← hrhMax, ← htMin, ← htMax, ← and_assoc]
  exact ⟨linearConv_mem_range (by decide) 39321600 raw, linearConv_mem_range (by decide) 307036160 raw⟩

/-- The source's formulas, rounded once (R151). -/
theorem roundsTo_conversions (raw : Half) :
    RoundsTo (((raw.toNat : ℚ) * 125 / 65536 - 6) * 100) (rhCenti raw) ∧
      RoundsTo (((raw.toNat : ℚ) * 17572 / 100 / 65536 - 4685 / 100) * 100) (tCenti raw) := by
  have hrh := roundsTo_linearConv 12500 39321600 raw
  have ht := roundsTo_linearConv 17572 307036160 raw
  rw [← rhCenti_eq_linearConv] at hrh
  rw [← tCenti_eq_linearConv] at ht
  push_cast at hrh ht
  constructor
  · convert hrh using 1
    ring
  · convert ht using 1
    ring

/-- No intermediate reaches 2^31 (R151). -/
theorem intermediates_lt (raw : Half) :
    raw.toNat * 17572 ≤ 1151581020 ∧ |(raw.toNat : ℤ) * 17572 - 307036160| + 32768 < 2 ^ 31
      ∧ |(raw.toNat : ℤ) * 12500 - 39321600| + 32768 < 2 ^ 31 := by
  have hraw := raw.isLt
  simp only [abs_eq_max_neg]
  omega

/-- Settles O29: both conversions are linear, rounded once. -/
theorem conversionsAreExact : Obligations.ConversionsAreExact := by
  unfold Obligations.ConversionsAreExact
  obtain ⟨hrhMin, hrhMax, htMin, htMax⟩ := conversions_at_end_codes
  exact ⟨roundsTo_conversions, conversions_mem_range, hrhMin, hrhMax, htMin, htMax,
    fun x y h => ⟨linearConv_mono (by decide) 39321600 h, linearConv_mono (by decide) 307036160 h⟩, intermediates_lt⟩

/-- The first raw code, if the codes went on in both directions, that converts to v or more: the threshold of v, solved
for the code and rounded up. -/
def firstCode (slope offset v : ℤ) : ℤ := (roundingThreshold v + offset + (slope - 1)) / slope

/-- The codes that convert to v or more are those from its first code on. -/
theorem le_linearConv_iff {slope : ℤ} (hslope : 0 < slope) (offset v : ℤ) (raw : Half) :
    v ≤ linearConv slope offset raw ↔ firstCode slope offset v ≤ raw.toNat := by
  rw [linearConv, le_rha_iff, firstCode, ← Int.lt_add_one_iff (b := (raw.toNat : ℤ)), Int.ediv_lt_iff_lt_mul hslope,
    Int.add_mul]
  omega

/-- The codes that convert to v are those from its first code to the next value's. -/
theorem linearConv_eq_iff {slope : ℤ} (hslope : 0 < slope) (offset v : ℤ) (raw : Half) :
    linearConv slope offset raw = v ↔
      firstCode slope offset v ≤ raw.toNat ∧ raw.toNat < firstCode slope offset (v + 1) := by
  rw [← le_linearConv_iff hslope, ← not_le, ← le_linearConv_iff hslope]
  omega

/-- Where the first codes of a value and the next are k or k + 1 apart, that many consecutive codes take the value. -/
theorem exists_codes_of_linearConv_eq {slope offset v : ℤ} {k : ℕ} (hslope : 0 < slope)
    (hmin : 0 ≤ firstCode slope offset v) (hmax : firstCode slope offset (v + 1) ≤ 65536)
    (hstep : firstCode slope offset (v + 1) - firstCode slope offset v = k ∨
      firstCode slope offset (v + 1) - firstCode slope offset v = k + 1) :
    ∃ lo n : ℕ, (n = k ∨ n = k + 1) ∧ lo + n ≤ 65536 ∧
      ∀ raw, linearConv slope offset raw = v ↔ lo ≤ raw.toNat ∧ raw.toNat < lo + n := by
  refine ⟨(firstCode slope offset v).toNat, (firstCode slope offset (v + 1) - firstCode slope offset v).toNat,
    by omega, by omega, fun raw => ?_⟩
  rw [linearConv_eq_iff hslope]
  omega

/-- Settles O30: 65536 and 65535, the distances between thresholds, are 5 and a fraction times the slope. -/
theorem humidityQuantization : Obligations.HumidityQuantization := by
  unfold Obligations.HumidityQuantization
  rw [rhCenti_eq_linearConv]
  refine ⟨fun v hlow hhigh => ?_, fun raw => ?_, fun raw => ?_⟩
  · refine exists_codes_of_linearConv_eq (k := 5) (by decide) ?_ ?_ ?_ <;>
      simp only [firstCode, roundingThreshold] <;> omega
  · have hmin : firstCode 12500 39321600 (-600) = -2 := rfl
    have hnext : firstCode 12500 39321600 (-600 + 1) = 3 := rfl
    rw [linearConv_eq_iff (by decide), hmin, hnext]
    omega
  · have hraw := raw.isLt
    have hmax : firstCode 12500 39321600 11900 = 65534 := rfl
    have hnext : firstCode 12500 39321600 (11900 + 1) = 65539 := rfl
    rw [linearConv_eq_iff (by decide), hmax, hnext]
    omega

/-- Settles O31: 65536 and 65535, the distances between thresholds, are 3 and a fraction times the slope. -/
theorem temperatureQuantization : Obligations.TemperatureQuantization := by
  unfold Obligations.TemperatureQuantization
  rw [tCenti_eq_linearConv]
  refine ⟨fun v hlow hhigh => ?_, fun raw => ?_, fun raw => ?_⟩
  · refine exists_codes_of_linearConv_eq (k := 3) (by decide) ?_ ?_ ?_ <;>
      simp only [firstCode, roundingThreshold] <;> omega
  · have hmin : firstCode 17572 307036160 (-4685) = -1 := rfl
    have hnext : firstCode 17572 307036160 (-4685 + 1) = 2 := rfl
    rw [linearConv_eq_iff (by decide), hmin, hnext]
    omega
  · have hraw := raw.isLt
    have hmax : firstCode 17572 307036160 12887 = 65535 := rfl
    have hnext : firstCode 17572 307036160 (12887 + 1) = 65538 := rfl
    rw [linearConv_eq_iff (by decide), hmax, hnext]
    omega

end Sys2Proof
end

section
/-! PROOFS. MEASRH and MEAST through the port (R152 to R154): what measure_check finds, the converted value's bytes, and
every outcome of an operation of format F-MEAS, whatever its conversion. -/

namespace Sys2Proof

open Sys2Proof.Machine Sys2Proof.Safety

/-- The raw code as a number (R8, R41(a)). -/
theorem be16_eq_ofNat (hi lo : Byte) : be16 hi lo = BitVec.ofNat 16 (hi.toNat * 256 + lo.toNat) := by
  have hlo := lo.isLt
  have hhi := hi.isLt
  apply BitVec.eq_of_toNat_eq
  rw [be16, BitVec.toNat_append, BitVec.toNat_ofNat, ← Nat.shiftLeft_add_eq_or_of_lt hlo, Nat.shiftLeft_eq]
  omega

/-- The bytes of a value in s16, the first a quotient by 256 (R8, R41(d)). -/
theorem halfBytes_s16 (v : ℤ) : halfBytes (s16 v) = s16Bytes v := by
  have hhigh : (s16 v).extractLsb' 8 8 = BitVec.ofInt 8 (v / 256) := by
    apply BitVec.eq_of_toNat_eq
    simp only [s16, BitVec.extractLsb'_toNat, BitVec.toNat_ofInt, Nat.shiftRight_eq_div_pow]
    omega
  have hlow : (s16 v).extractLsb' 0 8 = BitVec.ofInt 8 v := by
    apply BitVec.eq_of_toNat_eq
    simp only [s16, BitVec.extractLsb'_toNat, BitVec.toNat_ofInt, Nat.shiftRight_zero]
    omega
  rw [halfBytes, hhigh, hlow, s16Bytes]

/-- The response to a good reply (R153, R154). -/
theorem measResponse_good (conv : Half → ℤ) (hi lo e a : Byte) :
    measResponse conv (.good hi lo (e, a))
      = [0x00, hi, lo] ++ s16Bytes (conv (BitVec.ofNat 16 (hi.toNat * 256 + lo.toNat))) ++ [e, a] := by
  rw [measResponse, halfBytes_s16, be16_eq_ofNat]
  rfl

/-- A reply that carries its own CRC is good (R152). -/
theorem measureCheck_of_crc (hi lo : Byte) :
    measureCheck true [hi, lo, crc8 0 [hi, lo]] = .good hi lo (crc8 0 [hi, lo], crc8 0 [hi, lo]) := by
  simp [measureCheck, crcDiffers, crcSeedStart]

/-- A reply that carries another byte is a mismatch (R152). -/
theorem measureCheck_of_ne {hi lo act : Byte} (h : crc8 0 [hi, lo] ≠ act) :
    measureCheck true [hi, lo, act] = .mismatch (crc8 0 [hi, lo], act) := by
  simpa [measureCheck, crcDiffers, crcSeedStart] using h

/-- A reply of another count is malformed, whatever its bytes (R152). -/
theorem measureCheck_of_length {e : Bool} {b : List Byte} (h : b.length ≠ if e then 3 else 2) :
    measureCheck e b = .malformed := by
  rcases measureCheck_cases e b with ⟨-, hcheck⟩ | ⟨hi, lo, rfl, rfl, -⟩ | ⟨hi, lo, act, rfl, rfl, -, -⟩ |
    ⟨hi, lo, rfl, rfl, -⟩
  · exact hcheck
  all_goals exact absurd rfl h

/-- The flag is bit 0 (R66). -/
theorem expectCrc_one : expectCrc 1 = true := rfl

/-- The count that a flags byte asks for (R152). -/
theorem expectedCount_of_le_one {flags : Byte} (h : flags.toNat ≤ 1) :
    (if expectCrc flags then 3 else 2) = 2 + flags.toNat := by
  revert flags
  decide

/-- A frame that decodes gets its operation's response from every state. -/
theorem responds_of_decode {q : Frame} {i : Instr} (h : decode q = .ok i) : Responds q i.response := by
  have hresponse : frameResponse q = i.response := by rw [frameResponse, h]
  rw [← hresponse]
  exact responds_frameResponse q

/-- A response may be written out as its value. -/
theorem responds_of_eq {q r r' : Frame} (h : Responds q r) (hr : r = r') : Responds q r' := hr ▸ h

/-- A request of format F-MEAS that fits its format is answered as its operation is, from every state (R66). -/
theorem completes_and_responds_meas {o : Opcode} {mk : Byte → List Byte → Instr} {flags : Byte} {b : List Byte}
    {r : Frame} (hformat : ∀ p, decodeOperands p o = decodeMeas mk p) (hflags : flags.toNat ≤ 1)
    (hlen : b.length ≤ 255) (hresponse : (mk flags b).response = r) :
    Completes (mk flags b) r ∧ Responds ([o.code, flags] ++ counted b) r := by
  subst hresponse
  refine ⟨completes_response _, responds_of_decode ?_⟩
  rw [List.cons_append, decode_code_cons, hformat]
  exact decodeMeas_ok.mpr ⟨flags, _, b, rfl, (countByte_toNat (decide_eq_true hlen)).symm, hflags, rfl⟩

/-- A request of format F-MEAS has the length its count gives and flags of at most 1 (R66, R71). -/
theorem responds_illegal_of_formatMeas {o : Opcode} {mk : Byte → List Byte → Instr} {q : Frame}
    (hformat : ∀ p, decodeOperands p o = decodeMeas mk p) (hop : q.head? = some o.code)
    (hbad : q.length < 3 ∨ q.length ≠ 3 + num q 2 ∨ 1 < num q 1) : Responds q [0x03] := by
  obtain ⟨p, rfl⟩ := List.head?_eq_some_iff.mp hop
  refine responds_illegal_of_format ?_
  have hcount : num (o.code :: p) 2 = num p 1 := rfl
  have hflags : num (o.code :: p) 1 = num p 0 := rfl
  rw [List.length_cons, hcount, hflags] at hbad
  rw [hformat, exists_decodeMeas_ok]
  omega

/-- An operation of format F-MEAS that answers what measure_check finds has every outcome of R153. -/
theorem measuresBy_of_formatMeas {o : Opcode} {mk : Byte → List Byte → Instr} {conv : Half → ℤ}
    (hformat : ∀ p, decodeOperands p o = decodeMeas mk p)
    (hresponse : ∀ flags b, (mk flags b).response = measResponse conv (measureCheck (expectCrc flags) b)) :
    MeasuresBy o.code mk conv := by
  refine ⟨fun hi lo => ?_, fun hi lo => ?_, fun hi lo act hne => ?_, fun flags b hflags hlen hcount => ?_,
    fun q => responds_illegal_of_formatMeas hformat⟩
  · refine completes_and_responds_meas (b := [hi, lo]) hformat (by decide) (by simp) ?_
    rw [hresponse]
    exact measResponse_good conv hi lo 0 0
  · refine completes_and_responds_meas (b := [hi, lo, crc8 0 [hi, lo]]) hformat (by decide) (by simp) ?_
    rw [hresponse, expectCrc_one, measureCheck_of_crc, measResponse_good]
  · refine completes_and_responds_meas (b := [hi, lo, act]) hformat (by decide) (by simp) ?_
    rw [hresponse, expectCrc_one, measureCheck_of_ne hne]
    rfl
  · refine completes_and_responds_meas hformat hflags hlen ?_
    rw [hresponse, measureCheck_of_length (by rwa [expectedCount_of_le_one hflags])]
    rfl

/-- The CRC of MEASRH's worked example, byte by byte (R153). -/
theorem crc8_worked_example : crc8 0x00 [0x80, 0x00] = 0x23 := by
  rw [crc8_cons, (by decide : crcByte 0x00 0x80 = 0x7A), crc8_cons, (by decide : crcByte 0x7A 0x00 = 0x23), crc8_nil]

/-- Settles O18: the corner cases and the worked example are good replies, their values computed. -/
theorem measrhConvertsHumidity : Obligations.MeasrhConvertsHumidity := by
  unfold Obligations.MeasrhConvertsHumidity
  have hmeas : MeasuresBy 0x08 .measrh rhCenti := measuresBy_of_formatMeas (o := .measrh) (fun _ => rfl) fun _ _ => rfl
  have ⟨hplain, hcrc, _⟩ := hmeas
  have ⟨_, hworked⟩ := hcrc 0x80 0x00
  rw [crc8_worked_example] at hworked
  exact ⟨hmeas, responds_of_eq (hplain 0x00 0x00).2 (by decide), responds_of_eq (hplain 0xFF 0xFF).2 (by decide),
    responds_of_eq (hplain 0x0C 0x49).2 (by decide), responds_of_eq hworked (by decide)⟩

/-- Settles O19: the corner cases, the tie at 0x6000 and the worked example are good replies, their values computed. -/
theorem meastConvertsTemperature : Obligations.MeastConvertsTemperature := by
  unfold Obligations.MeastConvertsTemperature
  have hmeas : MeasuresBy 0x09 .meast tCenti := measuresBy_of_formatMeas (o := .meast) (fun _ => rfl) fun _ _ => rfl
  have ⟨hplain, _⟩ := hmeas
  exact ⟨hmeas, responds_of_eq (hplain 0x00 0x00).2 (by decide), responds_of_eq (hplain 0xFF 0xFF).2 (by decide),
    responds_of_eq (hplain 0x44 0x41).2 (by decide), responds_of_eq (hplain 0x60 0x00).2 (by decide),
    responds_of_eq (hplain 0x66 0xE0).2 (by decide)⟩

end Sys2Proof
end

section
/-! PROOFS. SNCHK's response as R180 to R183 spell it out: the mask is the sum of its failed checks, the serial and the
type are in plain numbers. -/

namespace Sys2Proof

open Sys2Proof.Machine Sys2Proof.Safety

/-- The terms of R181 for a list of checks, the first of them check k. -/
def failSum : ℕ → List CrcPair → ℕ
  | _, [] => 0
  | k, (e, a) :: ps => failBit k e a + failSum (k + 1) ps

/-- The checks from k on set no bit below k. -/
theorem two_pow_dvd_failSum (k : ℕ) (ps : List CrcPair) : 2 ^ k ∣ failSum k ps := by
  induction ps generalizing k with
  | nil => exact dvd_zero _
  | cons p ps ih =>
    refine dvd_add ?_ ((pow_dvd_pow 2 k.le_succ).trans (ih (k + 1)))
    rw [failBit]
    split
    · exact dvd_zero _
    · exact dvd_rfl

/-- A check sets no bit above its own. -/
theorem failBit_lt (k : ℕ) (e a : Byte) : failBit k e a < 2 ^ (k + 1) := by
  rw [failBit]
  split
  · exact Nat.two_pow_pos _
  · exact Nat.pow_lt_pow_right (by decide) k.lt_succ_self

/-- The bit that the model's mask takes from one check is R181's term. -/
theorem toNat_crcDiffers_bit {k : ℕ} (hk : k < 8) (e a : Byte) :
    (((if crcDiffers (e, a) then 1 <<< k else 0 : ℕ) : Byte)).toNat = failBit k e a := by
  have hpow : 2 ^ k < 2 ^ 8 := Nat.pow_lt_pow_right (by decide) hk
  by_cases h : e = a
  · simp [crcDiffers, failBit, h]
  · simpa [crcDiffers, failBit, h, Nat.shiftLeft_eq] using hpow

/-- The bits of different checks do not overlap, so ORing them adds them (R181). -/
theorem toNat_mismatchMask {k : ℕ} {ps : List CrcPair} (h : k + ps.length ≤ 8) :
    (mismatchMask k ps).toNat = failSum k ps := by
  induction ps generalizing k with
  | nil => rfl
  | cons p ps ih =>
    rw [List.length_cons] at h
    obtain ⟨c, hc⟩ := two_pow_dvd_failSum (k + 1) ps
    rw [mismatchMask, BitVec.toNat_or, toNat_crcDiffers_bit (by omega), ih (by omega), failSum, hc, Nat.or_comm,
      ← Nat.two_pow_add_eq_or_of_lt (failBit_lt k _ _), Nat.add_comm]

/-- The mask of a reply is R181's sum over its six checks. -/
theorem toNat_mismatchMask_chainPairs (r : IdReply) : (mismatchMask 0 (chainPairs r)).toNat = maskOf r := by
  rw [toNat_mismatchMask (by simp [chainPairs])]
  simp only [failSum, chainPairs, maskOf, crcSeedStart, Nat.add_zero, Nat.zero_add, Nat.reduceAdd, Nat.add_assoc]

/-- A byte appended to a word is its least significant (R41(c)). -/
theorem toNat_append_byte {n : ℕ} (x : BitVec n) (b : Byte) : (x ++ b).toNat = x.toNat * 256 + b.toNat := by
  rw [BitVec.toNat_append, ← Nat.shiftLeft_add_eq_or_of_lt b.isLt, Nat.shiftLeft_eq]

/-- The serial is R182's sum. -/
theorem toNat_serialOf (r : IdReply) : (serialOf r).toNat = serialNat r := by
  simp only [serialOf, toNat_append_byte, serialNat]
  ring

/-- The bytes of a serial are its quotients by the powers of 256, the largest first (R41(d), R183). -/
theorem serialBytes_eq_map_range (v : Serial) :
    serialBytes v = (List.range 8).map fun k => BitVec.ofNat 8 (v.toNat / 256 ^ (7 - k)) := by
  simp only [serialBytes, BitVec.extractLsb', Nat.shiftRight_eq_div_pow]
  rfl

/-- The type code is R182's lookup. -/
theorem code_sensorType (x : Byte) : (sensorType x).code = typeCode x.toNat := by
  simp only [sensorType, typeCode, ← BitVec.toNat_inj, apply_ite SensorType.code]
  rfl

/-- SNCHK's response to a reply of the right counts is R183's. -/
theorem snchkResponse_some (r : IdReply) : snchkResponse (some r) = snResponse r := by
  have hmask := eq_ofNat_of_toNat_eq (toNat_mismatchMask_chainPairs r)
  have hzero : mismatchMask 0 (chainPairs r) = 0 ↔ maskOf r = 0 := by
    rw [← toNat_mismatchMask_chainPairs, ← BitVec.toNat_inj]
    rfl
  by_cases h : maskOf r = 0
  · rw [snchkResponse, if_pos (hzero.mpr h), snResponse, if_neg (not_not_intro h), serialBytes_eq_map_range,
      toNat_serialOf, code_sensorType]
    rfl
  · rw [snchkResponse, if_neg (mt hzero.mp h), snResponse, if_pos h, ← hmask]
    rfl

/-- A term of R181 is 0 exactly when its check passes. -/
theorem failBit_eq_zero_iff {i : ℕ} {e a : Byte} : failBit i e a = 0 ↔ e = a := by simp [failBit]

/-- The checks of R180: each after the first of its group is seeded with the received CRC byte before it. -/
def passesReceived (r : IdReply) : Prop :=
  crc8 0 [r.sna3] = r.crcA3 ∧ crc8 r.crcA3 [r.sna2] = r.crcA2 ∧ crc8 r.crcA2 [r.sna1] = r.crcA1
    ∧ crc8 r.crcA1 [r.sna0] = r.crcA0 ∧ crc8 0 [r.snb3, r.snb2] = r.crcB2 ∧ crc8 r.crcB2 [r.snb1, r.snb0] = r.crcB0

/-- The mask is 0 exactly when every check passes (R181). -/
theorem maskOf_eq_zero_iff (r : IdReply) : maskOf r = 0 ↔ passesReceived r := by
  simp only [maskOf, Nat.add_eq_zero_iff, failBit_eq_zero_iff, and_assoc, passesReceived]

/-- The response to a reply whose checks pass: each pair is the received byte twice (R183). -/
theorem snResponse_of_passesReceived {r : IdReply} (h : passesReceived r) :
    snResponse r = [0x00] ++ (List.range 8).map (fun k => BitVec.ofNat 8 (serialNat r / 256 ^ (7 - k)))
      ++ [typeCode r.snb3.toNat, 0x00] ++ [r.crcA3, r.crcA3, r.crcA2, r.crcA2, r.crcA1, r.crcA1, r.crcA0, r.crcA0,
        r.crcB2, r.crcB2, r.crcB0, r.crcB0] := by
  have hmask := (maskOf_eq_zero_iff r).mpr h
  obtain ⟨hA3, hA2, hA1, hA0, hB2, hB0⟩ := h
  rw [snResponse, if_neg (not_not_intro hmask), pairsOf, hA3, hA2, hA1, hA0, hB2, hB0]

/-- The response to a reply with a failed check (R183). -/
theorem snResponse_of_maskOf_ne_zero {r : IdReply} (h : maskOf r ≠ 0) :
    snResponse r = [0x01, 0, 0, 0, 0, 0, 0, 0, 0, 0x00, BitVec.ofNat 8 (maskOf r)] ++ pairsOf r := if_pos h

end Sys2Proof
end

section
/-! PROOFS. SNCHK and SNTYPE through the port (R180 to R184): every outcome of SNCHK, and the frames that are answered
[03]. -/

namespace Sys2Proof

open Sys2Proof.Machine Sys2Proof.Safety

/-- The frame of an SNCHK request gets SNCHK's response from every state (R183). -/
theorem responds_snchk {a b : List Byte} (ha : a.length ≤ 255) (hb : b.length ≤ 255) :
    Responds ([0x0A] ++ counted a ++ counted b) (snchkResponse (readReply a b)) :=
  responds_encode (i := .snchk a b) (Bool.and_eq_true_iff.mpr ⟨decide_eq_true ha, decide_eq_true hb⟩)

/-- The two parts of a reply get R183's response from every state. -/
theorem responds_snResponse (r : IdReply) :
    Responds ([0x0A] ++ counted (partA r) ++ counted (partB r)) (snResponse r) := by
  rw [← snchkResponse_some]
  exact responds_snchk (a := partA r) (b := partB r) (by simp [partA]) (by simp [partB])

/-- Replies of other counts are not read (R183). -/
theorem readReply_of_length {a b : List Byte} (h : a.length ≠ 8 ∨ b.length ≠ 6) : readReply a b = none := by
  rw [← Option.not_isSome_iff_eq_none, readReply_isSome, not_and_or]
  exact h

/-- A request of format F-SN has the length its two counts give (R67). -/
theorem responds_illegal_of_formatSn {q : Frame} (hop : q.head? = some 0x0A)
    (hbad : q.length < 2 ∨ q.length < 3 + num q 1 ∨ q.length ≠ 3 + num q 1 + num q (2 + num q 1)) :
    Responds q [0x03] := by
  obtain ⟨p, rfl⟩ := List.head?_eq_some_iff.mp hop
  refine responds_illegal_of_format (o := .snchk) ?_
  have hcountA : num (0x0A :: p) 1 = num p 0 := rfl
  rw [List.length_cons, hcountA, num_cons_two_add] at hbad
  rw [decodeOperands, exists_decodeSn_ok]
  omega

/-- The CRC of two bytes, byte by byte. -/
theorem crc8_pair {s x y c e : Byte} (hx : crcByte s x = c) (hy : crcByte c y = e) : crc8 s [x, y] = e := by
  rw [crc8_cons, crc8_cons, hx, hy, crc8_nil]

/-- The all-zero reply (R183). -/
def zeroReply : IdReply := ⟨0, 0, 0, 0, 0, 0, 0, 0, 0, 0, 0, 0, 0, 0⟩

/-- The all-zero reply passes, since zeros leave the seed 0. -/
theorem passesReceived_zeroReply : passesReceived zeroReply :=
  have hone : crc8 0 [0] = 0 := crc8_zero_replicate 1
  have htwo : crc8 0 [0, 0] = 0 := crc8_zero_replicate 2
  ⟨hone, hone, hone, hone, htwo, htwo⟩

/-- The reply of the worked example (R183). -/
def workedReply : IdReply := ⟨0x12, 0x21, 0x34, 0xB6, 0x56, 0xC1, 0x78, 0x37, 0x15, 0xFF, 0xB5, 0xAB, 0xCD, 0x08⟩

/-- The reply of the worked example passes. -/
theorem passesReceived_workedReply : passesReceived workedReply :=
  ⟨by decide, by decide, by decide, by decide, crc8_pair (c := 0xB6) (by decide) (by decide),
    crc8_pair (c := 0x5C) (by decide) (by decide)⟩

/-- Settles O20: the all-zero reply and the worked example are replies whose response is computed. -/
theorem snchkJudgesTheReplies : Obligations.SnchkJudgesTheReplies := by
  unfold Obligations.SnchkJudgesTheReplies
  refine ⟨fun r => ⟨?_, responds_snResponse r⟩, fun a b hcount => ?_, fun q => responds_illegal_of_formatSn, ?_, ?_⟩
  · rw [← snchkResponse_some]
    exact completes_response (.snchk (partA r) (partB r))
  · have hresponse : snchkResponse (readReply a b) = 0x02 :: List.replicate 22 0 := by
      rw [readReply_of_length hcount]
      rfl
    rw [← hresponse]
    exact ⟨completes_response (.snchk a b), responds_snchk⟩
  · exact responds_of_eq (responds_snResponse zeroReply) (snResponse_of_passesReceived passesReceived_zeroReply)
  · exact responds_of_eq (responds_snResponse workedReply) (snResponse_of_passesReceived passesReceived_workedReply)

/-- Settles O21: the lookup is on the byte's number. -/
theorem sntypeDecodesTheSensorType : Obligations.SntypeDecodesTheSensorType := by
  unfold Obligations.SntypeDecodesTheSensorType
  have hresponds (x : Byte) : Responds [0x0B, x] [0x00, typeCode x.toNat] := by
    rw [← code_sensorType]
    exact responds_encode (i := .sntype x) rfl
  refine ⟨fun x => ⟨?_, hresponds x⟩, fun q => responds_illegal_of_formatB1 (o := .sntype) fun _ => rfl,
    hresponds 0x14⟩
  rw [← code_sensorType]
  exact completes_response (.sntype x)

end Sys2Proof
end

section
/-! PROOFS. What a passing reply is (R185, R186): an OK is six checks that pass, and checks that pass make the two
seedings of R180 and R186 the same. -/

namespace Sys2Proof

open Sys2Proof.Machine Sys2Proof.Safety

/-- A frame has one response. -/
theorem responds_unique {q r r' : Frame} (h : Responds q r) (h' : Responds q r') : r = r' := by
  have hstep := (h State.reset []).symm.trans (h' State.reset [])
  simpa using hstep

/-- SNCHK answers OK exactly when every check passes (R183). -/
theorem exists_responds_ok_iff (r : IdReply) :
    (∃ body, Responds ([0x0A] ++ counted (partA r) ++ counted (partB r)) (0x00 :: body)) ↔ passesReceived r := by
  constructor
  · rintro ⟨body, hok⟩
    by_contra hfails
    have hresponse := responds_unique hok (responds_snResponse r)
    rw [snResponse_of_maskOf_ne_zero (mt (maskOf_eq_zero_iff r).mp hfails)] at hresponse
    simp at hresponse
  · intro hpass
    have hresponse := responds_snResponse r
    rw [snResponse_of_passesReceived hpass] at hresponse
    exact ⟨_, hresponse⟩

/-- Checks that pass make the two seedings the same: each received CRC byte is then the computed one (R186). -/
theorem passesReceived_iff_passesComputed (r : IdReply) : passesReceived r ↔ passesComputed r := by
  cases r
  simp only [passesReceived, passesComputed]
  constructor
  · rintro ⟨rfl, rfl, rfl, rfl, rfl, rfl⟩
    exact ⟨rfl, rfl, rfl, rfl, rfl, rfl⟩
  · rintro ⟨rfl, rfl, rfl, rfl, rfl, rfl⟩
    exact ⟨rfl, rfl, rfl, rfl, rfl, rfl⟩

/-- Settles O33: an OK is checks that pass, and those pass under both seedings. -/
theorem verdictIsTheSameUnderBothSeedings : Obligations.VerdictIsTheSameUnderBothSeedings := by
  unfold Obligations.VerdictIsTheSameUnderBothSeedings
  exact fun r => (exists_responds_ok_iff r).trans (passesReceived_iff_passesComputed r)

/-- Settles O32: a computed seed is the CRC of the bytes before it, and a concatenation's CRC goes on from there. -/
theorem passingCrcsAreCumulative : Obligations.PassingCrcsAreCumulative := by
  unfold Obligations.PassingCrcsAreCumulative
  intro r body hok
  have hpass := (verdictIsTheSameUnderBothSeedings r).mp ⟨body, hok⟩
  simp only [passesComputed, ← crc8_append, List.cons_append, List.nil_append] at hpass
  obtain ⟨hA3, hA2, hA1, hA0, hB2, hB0⟩ := hpass
  exact ⟨hA3.symm, hA2.symm, hA1.symm, hA0.symm, hB2.symm, hB0.symm⟩

end Sys2Proof
end

section
/-! PROOFS. Where a corrupted byte of a passing reply shows (R187): a check sees every change of one of its bytes, its
seed among them, and the checks that do not read the byte still pass. -/

namespace Sys2Proof

open Sys2Proof.Machine Sys2Proof.Safety

/-- Two registers take the same byte to two registers. -/
theorem crcByte_left_inj {c c' d : Byte} : crcByte c d = crcByte c' d ↔ c = c' := by
  rw [crcByte, crcByte, (crcShifts_injective 8).eq_iff, BitVec.xor_left_inj]

/-- A register takes two bytes to two registers. -/
theorem crcByte_right_inj {c d d' : Byte} : crcByte c d = crcByte c d' ↔ d = d' := by
  rw [crcByte, crcByte, (crcShifts_injective 8).eq_iff, BitVec.xor_right_inj]

/-- The reply with byte k of part 1, followed by part 2, replaced. -/
def replaceByte (r : IdReply) (v : Byte) : ℕ → IdReply
  | 0 => { r with sna3 := v }
  | 1 => { r with crcA3 := v }
  | 2 => { r with sna2 := v }
  | 3 => { r with crcA2 := v }
  | 4 => { r with sna1 := v }
  | 5 => { r with crcA1 := v }
  | 6 => { r with sna0 := v }
  | 7 => { r with crcA0 := v }
  | 8 => { r with snb3 := v }
  | 9 => { r with snb2 := v }
  | 10 => { r with crcB2 := v }
  | 11 => { r with snb1 := v }
  | 12 => { r with snb0 := v }
  | 13 => { r with crcB0 := v }
  | _ => r

/-- Replacing a byte of the reply replaces it in the sequence of its bytes. -/
theorem set_parts_eq_parts_replaceByte (r : IdReply) (v : Byte) (k : ℕ) :
    (partA r ++ partB r).set k v = partA (replaceByte r v k) ++ partB (replaceByte r v k) := by
  match k with
  | 0 | 1 | 2 | 3 | 4 | 5 | 6 | 7 | 8 | 9 | 10 | 11 | 12 | 13 => rfl
  | k + 14 => rfl

/-- The mask after the corruption of a byte is R187's for that byte. A data byte is read by one check, which then
computes another CRC; a CRC byte is compared by its own check, and within a group it is also the seed of the next. -/
theorem maskOf_replaceByte {r : IdReply} {v : Byte} {k : ℕ} (hpass : passesReceived r) (hk : k < 14)
    (hne : (partA r ++ partB r).getD k 0 ≠ v) :
    maskOf (replaceByte r v k) = (corruptionMask.getD k 0).toNat := by
  cases r
  simp only [passesReceived] at hpass
  obtain ⟨rfl, rfl, rfl, rfl, rfl, rfl⟩ := hpass
  have hne' := hne.symm
  match k with
  | 0 | 2 | 4 | 6 | 8 | 9 | 11 | 12 =>
    simp_all [replaceByte, partA, partB, maskOf, failBit, corruptionMask, crc8_cons, crcByte_left_inj,
      crcByte_right_inj]
  | 1 | 3 | 5 | 10 =>
    simp_all [replaceByte, partA, partB, maskOf, failBit, corruptionMask, crc8_cons, crcByte_left_inj]
  | 7 | 13 => simp_all [replaceByte, partA, partB, maskOf, failBit, corruptionMask]

/-- Settles O34: the corrupted reply has R187's mask, which is not 0. -/
theorem singleByteCorruptionIsLocated : Obligations.SingleByteCorruptionIsLocated := by
  unfold Obligations.SingleByteCorruptionIsLocated
  intro r ok k v hok hk hne
  have hmask := maskOf_replaceByte ((exists_responds_ok_iff r).mp ⟨ok, hok⟩) hk hne
  have hnonzero : ∀ k < 14, (corruptionMask.getD k 0).toNat ≠ 0 := by decide
  have hresponse := responds_snResponse (replaceByte r v k)
  rw [snResponse_of_maskOf_ne_zero (hmask ▸ hnonzero k hk), hmask, BitVec.ofNat_toNat, BitVec.setWidth_eq] at hresponse
  rw [set_parts_eq_parts_replaceByte]
  exact ⟨pairsOf (replaceByte r v k), hresponse⟩

end Sys2Proof
end

section
/-! PROOFS. Reset and the host's side of the block: reset discards the request in flight (R240), a run shows one response
a request (R253), and the host's register writes transmit the bytes of the block's answer (R249, R251). -/

namespace Sys2Proof

open Sys2Proof.Machine Sys2Proof.Safety

/-- Settles O4: whatever request the action names as in flight, the step clears the pair and serves nothing. -/
theorem resetDiscardsTheRequestInFlight : Obligations.ResetDiscardsTheRequestInFlight := by
  unfold Obligations.ResetDiscardsTheRequestInFlight
  intro s inFlight rest
  rw [step_act rfl, hostAct]
  rfl

/-- Settles O40: the one function is frameResponse. -/
theorem observationIsOneResponsePerRequest : Obligations.ObservationIsOneResponsePerRequest := by
  unfold Obligations.ObservationIsOneResponsePerRequest
  exact ⟨frameResponse, responds_frameResponse, observation_eq_map_frameResponse⟩

/-- The port answers the frame of a well-formed operation with the operation's response. -/
theorem serve_encode {i : Instr} (h : i.wf = true) (s : State) :
    serve (encode i) s = .next (s.writeRsp i.response) := by
  rw [serve_eq_writeRsp, frameResponse_encode h]

/-- An OK response of three bytes carries the sensor write frame after its status (R77). -/
theorem sensorWrite_ok (cmd v : Byte) : sensorWrite [0x00, cmd, v] = some [cmd, v] := rfl

/-- When the block answers a change OK with a sensor write frame, the host transmits that frame unchanged and caches its
register byte (R77, R249). -/
theorem changeRegister_of_response {c : RegisterChange} {cache : HostCache} {bus cmd new : Byte} (s : State)
    (hwf : (c.request (cache.obtain bus).1).wf = true)
    (hresponse : (c.request (cache.obtain bus).1).response = [0x00, cmd, new]) :
    changeRegister c cache bus s = some ([cmd, new], .cached new, answered s [0x00, cmd, new]) := by
  simp only [changeRegister, serve_encode hwf, hresponse, State.readRsp_writeRsp, sensorWrite_ok, HostCache.wrote,
    answered_eq_writeRsp]

/-- A change of the resolution transmits the merged byte (R122, R249). -/
theorem changeRegister_resolution (cache : HostCache) (bus : Byte) {res : Byte} (s : State) (h : res.toNat ≤ 3) :
    let new := withResolution (cache.obtain bus).1 res
    changeRegister (.resolution res) cache bus s = some ([0xE6, new], .cached new, answered s [0x00, 0xE6, new]) :=
  changeRegister_of_response s (decide_eq_true h) rfl

/-- A change of the heater enable transmits the merged byte (R124, R249). -/
theorem changeRegister_heater (cache : HostCache) (bus : Byte) {en : Byte} (s : State) (h : en.toNat ≤ 1) :
    let new := withHeater (cache.obtain bus).1 en
    changeRegister (.heater en) cache bus s = some ([0xE6, new], .cached new, answered s [0x00, 0xE6, new]) :=
  changeRegister_of_response s (decide_eq_true h) rfl

/-- A heater level goes out masked (R126, R249). -/
theorem writeHeaterLevel_eq (level : Byte) (s : State) :
    writeHeaterLevel level s
      = some ([0x51, level &&& levelMask], answered s [0x00, 0x51, level &&& levelMask]) := by
  have hserve : serve (encode (.htrenc level)) s = .next (s.writeRsp [0x00, 0x51, level &&& levelMask]) :=
    serve_encode (i := .htrenc level) rfl s
  simp only [writeHeaterLevel, hserve, State.readRsp_writeRsp, sensorWrite_ok, Option.map_some, answered_eq_writeRsp]

/-- Settles O45: what the host transmits is the block's merged byte or masked level, here in plain numbers; the
cases of the cache are R251's two sources of the byte merged into. -/
theorem registerChangeTransmitsTheMergedByte : Obligations.RegisterChangeTransmitsTheMergedByte := by
  unfold Obligations.RegisterChangeTransmitsTheMergedByte
  refine ⟨fun cache bus res s hres => ?_, fun cache bus en s hen => ?_, fun level s => ?_⟩
  · have hchange := changeRegister_resolution cache bus s hres
    rw [eq_ofNat_of_toNat_eq (toNat_withResolution _ hres)] at hchange
    cases cache <;> exact hchange
  · have hchange := changeRegister_heater cache bus s hen
    rw [eq_ofNat_of_toNat_eq (toNat_withHeater _ hen)] at hchange
    cases cache <;> exact hchange
  · rw [← eq_ofNat_of_toNat_eq (toNat_and_levelMask level)]
    exact writeHeaterLevel_eq level s

end Sys2Proof
end

section
/-! PROOFS. Sample frames of each family (R62 to R67), read from the encoder's side. -/

namespace Sys2Proof

/-- Settles O10: a frame decodes to an operation exactly when the operation is well formed and the frame is its
encoding, and of each sample that is seen by writing the encoding out. -/
theorem sampleFramesDecode : Obligations.SampleFramesDecode := by
  unfold Obligations.SampleFramesDecode
  simp only [decode_eq_ok_iff]
  decide

end Sys2Proof
end
